-- ==== Sys2Proof/Word.lean ====
section
/-! DEFINITION. The number types of the manual: the widths that a host or a peer station sees (11_formats.md, "Conventions"). -/

namespace Sys2Proof

/-- A byte of a link body, of a configuration image or of the Local Port. -/
abbrev Byte := BitVec 8

/-- A 24-bit RGB pixel, 8 bits per colour; red in the top byte (Formats: "red, green, blue"). -/
abbrev Pixel := BitVec 24

/-- Epoch numbers run 0..65535 and wrap (Conventions). -/
abbrev Epoch := BitVec 16

/-- The wall frame count runs 0..2^32−1 and wraps (R70). -/
abbrev FrameCount := BitVec 32

/-- The map digest, and every CRC (R12). -/
abbrev Digest := BitVec 16

/-- Station numbers run 0..15. -/
abbrev Station := Fin 16

/-- A station set is a 16-bit number: bit n is set when station n is in the set (11_formats.md). -/
abbrev StationSet := BitVec 16

end Sys2Proof
end

