-- ==== Sys2Proof/Config.lean ====
section
/-! DEFINITION. What the part fixes once (the numbers of the data sheet's feature table) and the free values: constants with
no body, of which nothing can be proved, for what the manual leaves open. -/

namespace Sys2Proof

/-- Columns of a frame bank (R117). -/
def Config.bankColumns : Nat := 512
/-- Rows of a frame bank (R117). -/
def Config.bankRows : Nat := 320
/-- Entries of the Outbound Queue (R156). -/
def Config.outboundCapacity : Nat := 48
/-- Entries of the inbound queue (R131). -/
def Config.inboundCapacity : Nat := 16
/-- Records of the event queue (R187). -/
def Config.eventCapacity : Nat := 32
/-- Pixels of the pixel input buffer (R143). -/
def Config.bufferCapacity : Nat := 32
/-- HOLD is asserted at this many buffered pixels and above (R145). -/
def Config.holdAssertAt : Nat := 24
/-- HOLD is released at this many buffered pixels and below (R145). -/
def Config.holdReleaseAt : Nat := 8
/-- Pixels of a full run (R147). -/
def Config.runLimit : Nat := 64
/-- Attempts after which an unheard control item is settled and an outbound entry is given up (R36, R37, R38, R164). -/
def Config.attemptLimit : Nat := 24
/-- The first holdoff, 20 µs, in units of 0.1 µs (R33, R163). -/
def Config.holdoffFirst : Nat := 200
/-- The longest holdoff, 1,280 µs, in units of 0.1 µs (R33, R163). -/
def Config.holdoffLimit : Nat := 12800
/-- Where the listen count stops (R46). -/
def Config.listenPeriod : Nat := 4
/-- Where the ready-wait timer stops (R101). -/
def Config.readyWaitMax : Nat := 60
/-- Where the silent count and a control slot's attempt count stop (R80, R30). -/
def Config.byteMax : Nat := 255
/-- Largest launch delay, in units of 0.1 µs (R73). -/
def Config.launchDelayMax : Nat := 1165999
/-- Bytes of a configuration image, CRC included (10_start_up_and_configuration.md, 10.1). -/
def Config.imageLimit : Nat := 1024
/-- Bytes of a host image, CRC left out (R204). -/
def Config.hostImageLimit : Nat := 1022
/-- The wait after a failed EEPROM attempt, 5 ms, in units of 0.1 µs (R198). -/
def Config.eepromRetryWait : Nat := 50000

/-- FREE VALUE. Where, among the records one event raises in an order no rule gives, the `k`-th raised since power-up
enters (R187: "the records of one event enter in either order"). Assumption 5. -/
opaque Config.recordOrder : Nat → Nat

/-- FREE VALUE. Which pixels (by position in the operation) an abandoned bank-writer operation had written
(R136: it "may leave a row of the back bank partly written"). Assumption 6. -/
opaque Config.partialWrite : Nat → Nat → Bool

/-- FREE VALUE. The time "from the most recent vertical start", in units of 0.1 µs, read before the generator's first
vertical start (R68, R73, R76 state none). Assumption 7. -/
opaque Config.phaseBeforeFirstStart : Nat → Nat

end Sys2Proof
end

