-- ==== Sys2Proof/Syntax.lean ====
section
/-! DEFINITION. The commands of the block: one constructor of `Instr` for each row of spec/opcode_table.json. `dt` is the
time, in units of 0.1 µs, that has passed since the command before (assumption 2); the rows without `dt` are the ones
that the rules place inside the event of another row (assumption 1). -/

namespace Sys2Proof

/-- The MOSI bytes of a transaction after its command byte, and whether a partial byte follows them (R173). -/
structure Tail where
  bytes : List Byte
  partialByte : Bool
  deriving DecidableEq, Repr

/-- The acknowledge bits that an EEPROM attempt samples (R198, steps 2, 3 and 5). -/
inductive AckBit where
  | deviceWrite | addressHigh | addressLow | deviceRead
  deriving DecidableEq, Repr

/-- The control slots that are retried and held off (R30); the beacon slot has neither. -/
inductive ControlSlot where
  | drop | leave | join | ready
  deriving DecidableEq, Repr

/-- Who begins the frame at a start field: this station (with or without others), or others alone (R19). -/
inductive StartField where
  | ours | others
  deriving DecidableEq, Repr

/-- The fields of a link frame from the class through the CRC; `WireFrame.line` is the frame bit by bit, with its marks (R17). -/
structure WireFrame where
  cls : BitVec 2
  station : BitVec 4
  kind : BitVec 4
  length : Byte
  complement : Byte
  body : List Byte
  crc : BitVec 16
  deriving DecidableEq, Repr

/-- The end of a frame as this station reads it: the frame, and the two verdict slots as the OTHER stations drive them
(R28); this station's own part in the slots follows from its state. -/
structure FrameEnd where
  frame : WireFrame
  otherTake : Bool
  otherSpoil : Bool
  deriving DecidableEq, Repr

/-- When a read transaction whose table has no row for the rise of CS_N is judged: `dt` after the command before; CS_N then stays
low for `low` more (R173; assumption 4). -/
structure ReadTime where
  dt : Nat
  low : Nat
  deriving DecidableEq, Repr

/-- A frame cut short (R22), `dt` after the command before it; `lostBit`: before the cut this station, sending, had read a
released bit of its own as driven after the contention field (R21). -/
structure CutFrame where
  dt : Nat
  lostBit : Bool
  deriving DecidableEq, Repr

/-- The commands: spec/opcode_table.json, in its order. -/
inductive Instr where
  /-- POWER_ON (R206). -/
  | powerOn (dt : Nat)
  /-- RESET_PIN_ASSERT (R173): RESET_N falls. -/
  | resetPinAssert (dt : Nat)
  /-- RESET_PIN_RELEASE (R197): RESET_N rises. -/
  | resetPinRelease (dt : Nat)
  /-- EEPROM_ATTEMPT (R198): with the first missing acknowledge, if one is missing. -/
  | eepromAttempt (dt : Nat) (missing : Option AckBit)
  /-- EEPROM_RETRY_WAIT_EXPIRY (R198). -/
  | eepromRetryWaitExpiry (dt : Nat)
  /-- EEPROM_BYTE (R199): the byte read. -/
  | eepromByte (dt : Nat) (value : Byte)
  /-- NOP (R179). -/
  | nop (dt : Nat) (tail : Tail)
  /-- SET_WINDOW (R138). -/
  | setWindow (dt : Nat) (tail : Tail)
  /-- STREAM_START (R141): the command byte is complete. -/
  | streamStart (dt : Nat)
  /-- STREAM_CONTINUE (R141): the command byte is complete. -/
  | streamContinue (dt : Nat)
  /-- STREAM_PIXEL_BYTE (R142). -/
  | streamPixelByte (dt : Nat) (value : Byte)
  /-- STREAM_RELEASE (R143): chip select rises on a stream transaction. -/
  | streamRelease (dt : Nat)
  /-- FILL (R152). -/
  | fill (dt : Nat) (tail : Tail)
  /-- PRESENT (R90). -/
  | present (dt : Nat) (tail : Tail)
  /-- READ_STATUS (R192): the command byte is complete. -/
  | readStatus (time : ReadTime)
  /-- READ_EVENT (R188): the command byte is complete. -/
  | readEvent (dt : Nat)
  /-- READ_EVENT_RELEASE (R188): chip select rises after this many bytes beyond the command byte. -/
  | readEventRelease (dt : Nat) (clocked : Nat)
  /-- READ_COUNTERS (R191): the command byte is complete. -/
  | readCounters (dt : Nat)
  /-- READ_COUNTERS_RELEASE (R191): chip select rises after this many bytes beyond the command byte. -/
  | readCountersRelease (dt : Nat) (clocked : Nat)
  /-- READ_FRONT (R182): with the parameter bytes that arrived, eight or (chip select rose early) fewer. -/
  | readFront (time : ReadTime) (params : List Byte)
  /-- READ_FRONT_ROW (R135): the first byte of the next row is to be shifted out. -/
  | readFrontRow (dt : Nat)
  /-- LEAVE (R56). -/
  | leave (dt : Nat) (tail : Tail)
  /-- JOIN (R66). -/
  | join (dt : Nat) (tail : Tail)
  /-- SOFT_RESET (R180). -/
  | softReset (dt : Nat) (tail : Tail)
  /-- CONFIG_RECORD (R204). -/
  | configRecord (dt : Nat) (tail : Tail)
  /-- CONFIG_END (R205). -/
  | configEnd (dt : Nat) (tail : Tail)
  /-- UNKNOWN (R176): a command code that names no command. -/
  | unknown (dt : Nat) (code : Byte) (tail : Tail)
  /-- EMPTY_TRANSACTION (R173): fewer than eight clocks. -/
  | emptyTransaction (dt : Nat) (clocks : Nat)
  /-- LINK_IDLE (R16). -/
  | linkIdle (dt : Nat)
  /-- FRAME_START (R19): a start field on the wire. -/
  | frameStart (dt : Nat) (who : StartField)
  /-- FRAME_CUT_SHORT (R22). -/
  | frameCutShort (cut : CutFrame)
  /-- BEACON (R75): a beacon frame ends. -/
  | beacon (dt : Nat) (frame : FrameEnd)
  /-- JOIN_FRAME (R53). -/
  | joinFrame (dt : Nat) (frame : FrameEnd)
  /-- LEAVE_FRAME (R57). -/
  | leaveFrame (dt : Nat) (frame : FrameEnd)
  /-- READY_FRAME (R93). -/
  | readyFrame (dt : Nat) (frame : FrameEnd)
  /-- DROP_FRAME (R58). -/
  | dropFrame (dt : Nat) (frame : FrameEnd)
  /-- SPAN_FRAME (R169). -/
  | spanFrame (dt : Nat) (frame : FrameEnd)
  /-- FILL_FRAME (R169). -/
  | fillFrame (dt : Nat) (frame : FrameEnd)
  /-- HOLDOFF_EXPIRY (R33). -/
  | holdoffExpiry (dt : Nat) (slot : ControlSlot)
  /-- ADDRESSEE_HOLDOFF_EXPIRY (R163). -/
  | addresseeHoldoffExpiry (dt : Nat) (addressee : Station)
  /-- VERTICAL_START (R69); `inVerdict`: it falls between the TAKE slot and the end of the SPOIL slot of the frame on
  the wire (R131). -/
  | verticalStart (dt : Nat) (inVerdict : Bool)
  /-- LOCK_LOSS (R80). -/
  | lockLoss
  /-- BEACON_LOSS (R81). -/
  | beaconLoss
  /-- READY_WAIT_EXPIRY (R102). -/
  | readyWaitExpiry
  /-- JOINING_PASSAGE (R49). -/
  | joiningPassage
  /-- FLIP (R106). -/
  | flip
  /-- FLIP_PASSED (R108). -/
  | flipPassed
  /-- PRS_RELEASE (R185). -/
  | prsRelease (dt : Nat)
  /-- BANK_CLEAR_ROW (R121). -/
  | bankClearRow (dt : Nat)
  /-- BANK_CLEAR_END (R121). -/
  | bankClearEnd
  /-- BANK_WRITER_GRANT (R124). -/
  | bankWriterGrant
  /-- BANK_WRITER_OP_END (R123); `inVerdict` as for VERTICAL_START. -/
  | bankWriterOpEnd (dt : Nat) (inVerdict : Bool)
  /-- ROUTE_PIXEL (R146). -/
  | routePixel (dt : Nat)
  /-- WAITING_SPAN_ADMIT (R157). -/
  | waitingSpanAdmit
  /-- READY_QUEUED (R91). -/
  | readyQueued
  /-- VERTICAL_BLANK_END (R79). -/
  | verticalBlankEnd (dt : Nat)
  deriving DecidableEq, Repr

end Sys2Proof
end

