-- ==== Sys2Proof/WellFormed.lean ====
section
/-! DEFINITION. Which commands the wire, the port and the pins can carry at all: the checks on a command alone, whatever
the state. A command that fails one stands for nothing the outside world can do. -/

namespace Sys2Proof

/-- The command codes of 11_formats.md, section 11.3. -/
def commandCodes : List Byte :=
  [0x00#8, 0x01#8, 0x02#8, 0x03#8, 0x04#8, 0x10#8, 0x11#8, 0x12#8, 0x13#8, 0x14#8, 0x20#8, 0x21#8, 0x22#8, 0x30#8, 0x31#8]

/-- A frame whose length field agrees with its complement and is at most 200 has as many body bytes as it says
(R17, R25). -/
def FrameEnd.wf (f : FrameEnd) : Bool :=
  if f.frame.complement = ~~~f.frame.length ∧ f.frame.length.toNat ≤ 200 then
    f.frame.body.length = f.frame.length.toNat
  else true

/-- The checks on a command alone. -/
def Instr.wf : Instr → Bool
  | .unknown _ code _ => !commandCodes.contains code
  | .emptyTransaction _ clocks => clocks < 8
  | .readFront _ params => params.length ≤ 8
  | .beacon _ f => f.wf
  | .joinFrame _ f => f.wf
  | .leaveFrame _ f => f.wf
  | .readyFrame _ f => f.wf
  | .dropFrame _ f => f.wf
  | .spanFrame _ f => f.wf
  | .fillFrame _ f => f.wf
  | .powerOn _ | .resetPinAssert _ | .resetPinRelease _ | .eepromAttempt _ _ | .eepromRetryWaitExpiry _
  | .eepromByte _ _ | .nop _ _ | .setWindow _ _ | .streamStart _ | .streamContinue _ | .streamPixelByte _ _
  | .streamRelease _ | .fill _ _ | .present _ _ | .readStatus _ | .readEvent _ | .readEventRelease _ _
  | .readCounters _ | .readCountersRelease _ _ | .readFrontRow _ | .leave _ _ | .join _ _ | .softReset _ _
  | .configRecord _ _ | .configEnd _ _ | .linkIdle _ | .frameStart _ _ | .frameCutShort _ | .holdoffExpiry _ _
  | .addresseeHoldoffExpiry _ _ | .verticalStart _ _ | .lockLoss | .beaconLoss | .readyWaitExpiry | .joiningPassage
  | .flip | .flipPassed | .prsRelease _ | .bankClearRow _ | .bankClearEnd | .bankWriterGrant | .bankWriterOpEnd _ _
  | .routePixel _ | .waitingSpanAdmit | .readyQueued | .verticalBlankEnd _ => true

end Sys2Proof
end

