-- ==== Sys2Proof/Decode.lean ====
section
/-! DEFINITION. The commands that a word spells by the table's bits: spec/opcode_table.json gives bits to none of its rows. -/

namespace Sys2Proof

/-- No row of spec/opcode_table.json has bits ("n_rows_with_fixed": 0, "n_rows_with_fields": 0 in 98_reader.md), so no word
spells a command. -/
def decodeTableWord (_nbits _w : Nat) : Option Instr := none

end Sys2Proof
end

