-- ==== Sys2Proof/Machine/State.lean ====
section
/-! DEFINITION. The state of one TF-516 station: every register, queue, buffer, counter, mode and pin the manual gives it,
block by block (00_scope.md, "Block diagram"), as plain data; and the machine right after power-on. -/

namespace Sys2Proof.Machine

/-! ## Tile Map and configuration -/

/-- A rectangle with both corners included (Conventions). -/
structure Rect where
  x0 : Nat
  y0 : Nat
  x1 : Nat
  y1 : Nat
  deriving DecidableEq, Repr

/-- A tile record (R2). -/
structure Tile where
  station : Station
  x : Nat
  y : Nat
  width : Nat
  height : Nat
  deriving DecidableEq, Repr

/-- The tile map: canvas size, tile records in ascending order of station, the own number, the digest (R1, R2, R5, R13). -/
structure TileMap where
  width : Nat
  height : Nat
  tiles : List Tile
  self : Station
  digest : Digest
  deriving DecidableEq, Repr

/-- Host pixel format of the PIXEL record (R196): 24-bit or 16-bit. -/
inductive HostFormat where
  | rgb24 | rgb16
  deriving DecidableEq, Repr

/-- Carry policy of the PIXEL record (R196). -/
inductive CarryPolicy where
  | keep | clear
  deriving DecidableEq, Repr

/-- The settings of one successful load (R196, R202). -/
structure Configuration where
  map : TileMap
  /-- line time in units of 0.1 µs (PANEL) -/
  lineTime : Nat
  /-- vertical blank B in lines (PANEL) -/
  blank : Nat
  /-- ready-wait limit L (COMMIT) -/
  readyLimit : Nat
  /-- commit lead (COMMIT) -/
  commitLead : Nat
  format : HostFormat
  policy : CarryPolicy
  background : Pixel
  deriving DecidableEq, Repr

/-- The reasons of R200, in its order. -/
inductive FaultReason where
  | noEnd | crcMismatch | badValue | duplicateRecord | missingStation | missingCanvas | missingPanel | missingOwnTile
  | tileOutsideCanvas | tileOverlap
  deriving DecidableEq, Repr

/-! ## Membership Unit -/

/-- The station state (R42). -/
inductive StationState where
  | loading | awaitConfig | fault | listen | joining | member | evicted | detached | conflict
  deriving DecidableEq, Repr

/-- The cause that goes with FAULT, EVICTED and CONFLICT (R42); the cause of MEMBER follows from the founder flag. -/
inductive Cause where
  | absent | fault (reason : FaultReason) | dropped | beacon | map | id
  deriving DecidableEq, Repr

/-- The Membership Unit (R42, R43, R46, R65). -/
structure Membership where
  state : StationState
  cause : Cause
  synced : Bool
  founder : Bool
  /-- the member table, as the set of stations whose entry reads MEMBER (R43) -/
  members : StationSet
  /-- the FOREIGN reported set (R65) -/
  foreign : StationSet
  /-- listen record: beacon adopted (R46) -/
  beaconAdopted : Bool
  /-- listen record: member recorded (R46) -/
  memberRecorded : Bool
  /-- listen record: listen count, 0..4 (R46) -/
  listenCount : Nat
  deriving DecidableEq, Repr

/-! ## Link Controller and Outbound Queue -/

/-- An attempt count and a holdoff expiry, absent or a time (R30, R158). -/
structure Retry where
  attempts : Nat
  expiry : Option Nat
  deriving DecidableEq, Repr

/-- An occupied DROP slot (R30). -/
structure DropSlot where
  stations : StationSet
  retry : Retry
  deriving DecidableEq, Repr

/-- An occupied READY slot (R30). -/
structure ReadySlot where
  epoch : Epoch
  retry : Retry
  deriving DecidableEq, Repr

/-- The five control slots (R30). -/
structure Slots where
  beacon : Bool
  drop : Option DropSlot
  leave : Option Retry
  join : Option Retry
  ready : Option ReadySlot
  deriving DecidableEq, Repr

/-- What a SPAN or a FILL paints, in the addressee's local coordinates (R131, R156). -/
inductive Paint where
  | span (row : Nat) (start : Nat) (pixels : List Pixel)
  | fill (rect : Rect) (colour : Pixel)
  deriving DecidableEq, Repr

/-- An entry of the Outbound Queue (R156). -/
structure OutEntry where
  addressee : Station
  epoch : Epoch
  paint : Paint
  deriving DecidableEq, Repr

/-- The item of an attempt (R24). -/
inductive Item where
  | beacon | drop | leave | join | ready | outbound (entry : OutEntry)
  deriving DecidableEq, Repr

/-- The station's own frame on the wire: the item and the frame as built at its start field (R24). -/
structure Attempt where
  item : Item
  frame : WireFrame
  deriving DecidableEq, Repr

/-- How the receiver stands to the wire (R16): out of step since a reset; in step on an idle link; in step in a frame it
takes part in; in step, waiting for the next idle. -/
inductive LinkView where
  | outOfStep | idle | inFrame | gap
  deriving DecidableEq, Repr

/-- What a verdict slot was decided on, kept when another event of the station falls between the slot and the delivery
(R27, R131, R168). -/
structure SlotView where
  state : StationState
  synced : Bool
  members : StationSet
  backEpoch : Option Epoch
  inbound : Nat
  deriving DecidableEq, Repr

/-- The Link Controller with the Outbound Queue (R16, R30, R156, R158). -/
structure Link where
  view : LinkView
  flight : Option Attempt
  slotView : Option SlotView
  slots : Slots
  /-- the Outbound Queue, oldest first -/
  outbound : List OutEntry
  /-- the addressee table -/
  addressees : Vector Retry 16
  deriving DecidableEq, Repr

/-! ## Timing Unit -/

/-- The lock state (R78). -/
inductive LockState where
  | free | acquiring | locked
  deriving DecidableEq, Repr

/-- The running line and frame generator (R68, R79): when the blank of the frame in progress began, the correction set on
it, when its active rows began (absent inside the blank), and the most recent vertical start (absent before the first). -/
structure Generator where
  blankStart : Nat
  correction : Option Int
  activeSince : Option Nat
  lastVertical : Option Nat
  deriving DecidableEq, Repr

/-- The Timing Unit (R68 to R85). -/
structure Timing where
  /-- absent while the generator is stopped -/
  generator : Option Generator
  /-- the wall frame count -/
  count : FrameCount
  lock : LockState
  /-- the beacon source; absent for "none" -/
  source : Option Station
  silent : Nat
  /-- the held correction, in units of 0.1 µs -/
  held : Option Int
  /-- the recorded t of the latest start field, in units of 0.1 µs (R76) -/
  startPhase : Option Nat
  /-- own vertical starts since that start field (R76) -/
  startsSince : Nat
  deriving DecidableEq, Repr

/-! ## Commit Unit -/

/-- The local phase (R88). -/
inductive Phase where
  | absent | idle | building | closing | waiting | held
  deriving DecidableEq, Repr

/-- The last commit (R86). -/
structure LastCommit where
  epoch : Epoch
  flipFrame : FrameCount
  flipped : Bool
  deriving DecidableEq, Repr

/-- The collection record (R86). -/
structure Record where
  collecting : Epoch
  required : StationSet
  ready : StationSet
  last : Option LastCommit
  deriving DecidableEq, Repr

/-- The Commit Unit (R86). -/
structure Commit where
  record : Option Record
  phase : Phase
  /-- the ready-wait timer, 0..60 -/
  timer : Nat
  deriving DecidableEq, Repr

/-! ## Frame Store -/

/-- The contents of a frame bank: bytes by address, strictly rising, none equal to what an unlisted address reads as. -/
abbrev Memory := List Host.Cell

/-- The two banks (R117). -/
inductive Bank where
  | a | b
  deriving DecidableEq, Repr

/-- The show state (R119). -/
inductive ShowState where
  | background | front
  deriving DecidableEq, Repr

/-- An entry of the inbound queue (R131), with the rows already written (R132) and the mark of an entry that an adoption
has removed and that only finishes its operation in progress (R132). -/
structure InEntry where
  sender : Station
  epoch : Epoch
  paint : Paint
  rowsDone : Nat
  leaving : Bool
  deriving DecidableEq, Repr

/-- The four requesters of the bank writer (R123). -/
inductive Requester where
  | stream | localFill | inbound | carry
  deriving DecidableEq, Repr

/-- The operation of the bank writer in progress (R123): `onDemand` while the carry on demand before its write is still
being made (R125). -/
structure Operation where
  requester : Requester
  epoch : Epoch
  row : Nat
  start : Nat
  pixels : List Pixel
  bank : Bank
  onDemand : Bool
  deriving DecidableEq, Repr

/-- A bank clear in progress: when it began and the next row to clear (R121). -/
structure BankClear where
  begun : Nat
  row : Nat
  deriving DecidableEq, Repr

/-- The Frame Store (R117 to R137). -/
structure FrameStore where
  bankA : Memory
  bankB : Memory
  front : Bank
  /-- the dirty row set, ascending -/
  dirty : List Nat
  /-- the carry list, ascending -/
  carry : List Nat
  inbound : List InEntry
  showState : ShowState
  clear : Option BankClear
  operation : Option Operation
  lastServed : Requester
  deriving DecidableEq, Repr

/-! ## Window Engine -/

/-- A pixel of the pixel input buffer (R143). -/
structure BufferedPixel where
  colour : Pixel
  x : Nat
  y : Nat
  epoch : Epoch
  endMark : Bool
  deriving DecidableEq, Repr

/-- A run of the span builder (R147). -/
structure Run where
  addressee : Station
  epoch : Epoch
  row : Nat
  start : Nat
  pixels : List Pixel
  deriving DecidableEq, Repr

/-- The local fill job (R153). -/
structure FillJob where
  epoch : Epoch
  colour : Pixel
  rect : Rect
  nextRow : Nat
  deriving DecidableEq, Repr

/-- The Window Engine (R138 to R155). -/
structure Window where
  window : Option Rect
  cursor : Option (Nat × Nat)
  /-- the pixel assembler's 0..2 bytes -/
  assembler : List Byte
  buffer : List BufferedPixel
  /-- the HOLD line -/
  hold : Bool
  openRun : Option Run
  /-- closed spans that wait for the Outbound Queue (R148), in the order they closed: a second one only when the open run had
  to close while the first waited (assumption 12) -/
  waitingSpans : List Run
  /-- closed local runs that wait for an earlier one in the bank writer (R147), in the order they closed -/
  waitingLocals : List Run
  /-- the local run in the bank writer, as the stream requester's request or operation -/
  localRun : Option Run
  job : Option FillJob
  deriving DecidableEq, Repr

/-! ## Local Port -/

/-- The results of R175. -/
inductive Result where
  | ok | badLength | badParam | wrongState | held | busy | unknown | invalid
  deriving DecidableEq, Repr

/-- The event kinds of R186; `absent` is the kind NONE. -/
inductive EventKind where
  | absent | flipped | lateFlip | founded | joined | left | dropped | evicted | detached | alone | spanLost
  | streamOverrun | conflict | reference | lock | slip | foreign | configFault
  deriving DecidableEq, Repr

/-- An event record (R186); named values are numbered as in 11_formats.md, section 11.4. -/
structure EventRecord where
  kind : EventKind
  epoch : Option Epoch
  station : Option Station
  stations : Option StationSet
  value : Option (BitVec 32)
  deriving DecidableEq, Repr

/-- The seven counters (R190). -/
structure Counters where
  unownedPixels : BitVec 16
  overrunBytes : BitVec 16
  spansLost : BitVec 16
  staleEntries : BitVec 16
  spoilsSeen : BitVec 16
  lateFlips : BitVec 16
  eventsLost : BitVec 16
  deriving DecidableEq, Repr

/-- A stream transaction (R141): its result; the stream epoch while it is taken and not ended for the engine; whether it has
raised STREAM_OVERRUN; whether a pixel of it has entered the buffer. -/
structure StreamTransaction where
  result : Result
  epoch : Option Epoch
  overrun : Bool
  entered : Bool
  deriving DecidableEq, Repr

/-- The transaction in progress, where the table has rows inside one (R176), or where CS_N is still low after its row;
`response`: the rest of a READ_STATUS, or of a READ_FRONT refused, to the rise of CS_N; `abandoned`: one that a reset has
abandoned, and none begins until CS_N has risen (R173). `rise` is the time at which CS_N rises, where no row says it
(assumption 4). -/
inductive Transaction where
  | idle
  | abandoned (rise : Option Nat)
  | stream (t : StreamTransaction)
  | readEvent (copied : Option EventRecord)
  | readCounters (copied : Counters)
  | readFront (rect : Rect) (nextRow : Nat) (rise : Nat)
  | response (rise : Nat)
  deriving DecidableEq, Repr

/-- The Local Port (R173 to R195). INT is computed from the queue (R184). -/
structure Port where
  lastResult : Result
  transaction : Transaction
  /-- the MISO bytes of the latest transaction, in order; every later byte reads 0 (R174) -/
  miso : List Byte
  events : List EventRecord
  /-- records raised in the event in progress, in no fixed order (R187) -/
  raised : List EventRecord
  /-- records raised in the event in progress that follow the others, in this order (R187) -/
  raisedAfter : List EventRecord
  counters : Counters
  /-- while PRS is asserted, the time of its release (R185) -/
  prs : Option Nat
  deriving DecidableEq, Repr

/-! ## Start-up Loader -/

/-- A configuration record: tag and payload, the length being the payload's (11_formats.md, 11.2). -/
structure ConfigRecord where
  tag : Byte
  payload : List Byte
  deriving DecidableEq, Repr

/-- The two-wire controller (R197 to R199, R206): held while RESET_N is low; the bus recovery with the first attempt after
it; a later attempt; the wait after attempt `attempt`, up to a time; the sequential read; no further read. -/
inductive Loader where
  | held | recovery | attempt (number : Nat) | waiting (attempt : Nat) (expiry : Nat) | reading | off
  deriving DecidableEq, Repr

/-- The Start-up Loader (R196 to R207) and the RESET_N pin. -/
structure StartUp where
  /-- RESET_N is low -/
  resetLow : Bool
  loader : Loader
  /-- image bytes read from the EEPROM so far -/
  image : List Byte
  /-- the host image -/
  hostImage : List ConfigRecord
  deriving DecidableEq, Repr

/-! ## The whole -/

/-- What the latest vertical start has found due and the rows FLIP, FLIP_PASSED, LOCK_LOSS, BEACON_LOSS and
READY_WAIT_EXPIRY then do (R69, R80, R81, R102, R105, R108; assumption 1). -/
structure Handed where
  flip : Bool
  flipPassed : Bool
  lockLoss : Bool
  beaconLoss : Bool
  readyWait : Bool
  deriving DecidableEq, Repr

/-- One TF-516 station, the clock of the events, and the queue of commands. -/
structure State where
  /-- time of the latest command, in units of 0.1 µs -/
  now : Nat
  config : Option Configuration
  mu : Membership
  lc : Link
  tu : Timing
  cu : Commit
  fs : FrameStore
  we : Window
  lp : Port
  sl : StartUp
  handed : Handed
  /-- how many free values have been drawn (the model's own) -/
  free : Nat
  /-- the commands waiting, first in, first out -/
  pending : List Instr
  deriving DecidableEq, Repr

/-- The manual names no fault that stops the block: every misuse has a result, an event, a counter or no effect. No
constructor, so no step of the model ends in a fault. -/
inductive Fault
  deriving DecidableEq, Repr

/-- The model's refusals. -/
inductive Refusal where
  /-- Raised by `exec`'s arm for a row that has no meaning yet; safe, since no claim can then be proved of that row. -/
  | notModelled (mnemonic : String)
  deriving DecidableEq, Repr

/-! ## Updates, one for each field -/

/-- Set the clock of the events. -/
def State.setNow (s : State) (v : Nat) : State := { s with now := v }
/-- Set the held configuration. -/
def State.setConfig (s : State) (v : Option Configuration) : State := { s with config := v }
/-- Set the Membership Unit. -/
def State.setMu (s : State) (v : Membership) : State := { s with mu := v }
/-- Set the Link Controller. -/
def State.setLc (s : State) (v : Link) : State := { s with lc := v }
/-- Set the Timing Unit. -/
def State.setTu (s : State) (v : Timing) : State := { s with tu := v }
/-- Set the Commit Unit. -/
def State.setCu (s : State) (v : Commit) : State := { s with cu := v }
/-- Set the Frame Store. -/
def State.setFs (s : State) (v : FrameStore) : State := { s with fs := v }
/-- Set the Window Engine. -/
def State.setWe (s : State) (v : Window) : State := { s with we := v }
/-- Set the Local Port. -/
def State.setLp (s : State) (v : Port) : State := { s with lp := v }
/-- Set the Start-up Loader. -/
def State.setSl (s : State) (v : StartUp) : State := { s with sl := v }
/-- Set what the latest vertical start has found due. -/
def State.setHanded (s : State) (v : Handed) : State := { s with handed := v }
/-- Set the count of free values drawn. -/
def State.setFree (s : State) (v : Nat) : State := { s with free := v }
/-- Set the queue of commands. -/
def State.setPending (s : State) (v : List Instr) : State := { s with pending := v }

/-! ## Values after reset -/

/-- A record of the addressee table with nothing to hold off (R158), and a slot just filled (R30). -/
def Retry.fresh : Retry := { attempts := 0, expiry := none }

/-- All five control slots empty (R30). -/
def Slots.empty : Slots := { beacon := false, drop := none, leave := none, join := none, ready := none }

/-- Every record at count 0 with no holdoff (R167). -/
def freshAddressees : Vector Retry 16 := Vector.replicate 16 Retry.fresh

/-- Nothing due. -/
def Handed.clear : Handed :=
  { flip := false, flipPassed := false, lockLoss := false, beaconLoss := false, readyWait := false }

/-- R67, in a given station state. -/
def Membership.reset (state : StationState) : Membership :=
  { state := state, cause := .absent, synced := false, founder := false, members := 0#16, foreign := 0#16,
    beaconAdopted := false, memberRecorded := false, listenCount := 0 }

/-- R41, R167: nothing sent, out of step, slots and queue empty. -/
def Link.reset : Link :=
  { view := .outOfStep, flight := none, slotView := none, slots := Slots.empty, outbound := [],
    addressees := freshAddressees }

/-- R85, power-on column. -/
def Timing.reset : Timing :=
  { generator := none, count := 0#32, lock := .free, source := none, silent := 0, held := none, startPhase := none,
    startsSince := 0 }

/-- R116. -/
def Commit.reset : Commit := { record := none, phase := .absent, timer := 0 }

/-- R137, power-on column, for given bank contents. -/
def FrameStore.reset (bankA bankB : Memory) : FrameStore :=
  { bankA := bankA, bankB := bankB, front := .a, dirty := [], carry := [], inbound := [], showState := .background,
    clear := none, operation := none, lastServed := .carry }

/-- R155, power-on column. -/
def Window.reset : Window :=
  { window := none, cursor := none, assembler := [], buffer := [], hold := false, openRun := none, waitingSpans := [],
    waitingLocals := [], localRun := none, job := none }

/-- All seven counters 0. -/
def Counters.zero : Counters :=
  { unownedPixels := 0#16, overrunBytes := 0#16, spansLost := 0#16, staleEntries := 0#16, spoilsSeen := 0#16,
    lateFlips := 0#16, eventsLost := 0#16 }

/-- R195. -/
def Port.reset : Port :=
  { lastResult := .ok, transaction := .idle, miso := [], events := [], raised := [], raisedAfter := [],
    counters := Counters.zero, prs := none }

/-- R197, R206: entry to LOADING, with RESET_N at a given level. -/
def StartUp.reset (resetLow : Bool) : StartUp :=
  { resetLow := resetLow, loader := if resetLow then .held else .recovery, image := [], hostImage := [] }

/-- The machine right after power-on: LOADING, the bus recovery under way, nothing held. -/
def State.reset : State :=
  { now := 0, config := none, mu := Membership.reset .loading, lc := Link.reset, tu := Timing.reset, cu := Commit.reset,
    fs := FrameStore.reset [] [], we := Window.reset, lp := Port.reset, sl := StartUp.reset false,
    handed := Handed.clear, free := 0, pending := [] }

end Sys2Proof.Machine
end

