-- ==== Sys2Proof/Machine/Bits.lean ====
section
/-! DEFINITION. Byte order, station sets, and the CRC: the manual's bit-level conventions, each decided here once
(11_formats.md, R12). -/

namespace Sys2Proof.Machine

/-! ## Bytes: most significant byte first (11_formats.md) -/

/-- The number that bytes spell, most significant first. -/
def bytesToNat (bs : List Byte) : Nat := bs.foldl (fun n b => n * 256 + b.toNat) 0

/-- A quantity as `n` bytes, most significant first; what does not fit is cut off at the top. -/
def natToBytes : Nat → Nat → List Byte
  | 0, _ => []
  | n + 1, v => BitVec.ofNat 8 (v / 256 ^ n) :: natToBytes n v

/-- The bits of a byte, most significant first. -/
def byteBits (b : Byte) : List Bool :=
  [b.getLsbD 7, b.getLsbD 6, b.getLsbD 5, b.getLsbD 4, b.getLsbD 3, b.getLsbD 2, b.getLsbD 1, b.getLsbD 0]

/-- The bits of a sequence of bytes, in the order sent. -/
def bytesBits (bs : List Byte) : List Bool := bs.flatMap byteBits

/-- The four bits of a kind or station field, most significant first (R17). -/
def nibbleBits (v : BitVec 4) : List Bool := [v.getLsbD 3, v.getLsbD 2, v.getLsbD 1, v.getLsbD 0]

/-- A pixel as three bytes, red, green, blue (11_formats.md). -/
def pixelBytes (p : Pixel) : List Byte := natToBytes 3 p.toNat

/-- Three bytes, red, green, blue, as a pixel. -/
def pixelOfBytes (bs : List Byte) : Pixel := BitVec.ofNat 24 (bytesToNat bs)

/-- The pixels of a byte sequence of three bytes each. -/
def pixelsOfBytes : List Byte → List Pixel
  | r :: g :: b :: rest => pixelOfBytes [r, g, b] :: pixelsOfBytes rest
  | _ => []

/-! ## CRC-16 (R12): polynomial 1021h, initial value FFFFh, no inversion, no reversal -/

/-- One bit into the register: shift left; 1021h is exclusive-ORed in when the bit that left differs from the input bit. -/
def crcBit (r : BitVec 16) (b : Bool) : BitVec 16 :=
  if r.msb != b then (r <<< 1) ^^^ 0x1021#16 else r <<< 1

/-- The CRC of bits in the order sent. -/
def crcOfBits (bits : List Bool) : BitVec 16 := bits.foldl crcBit 0xFFFF#16

/-- The CRC of bytes, each most significant bit first. -/
def crcOfBytes (bs : List Byte) : BitVec 16 := crcOfBits (bytesBits bs)

/-! ## Station sets -/

/-- Station `x` is in the set. -/
def hasStation (m : StationSet) (x : Station) : Bool := m.getLsbD x.val

/-- The set {x}. -/
def oneStation (x : Station) : StationSet := 1#16 <<< x.val

/-- The set with `x` added. -/
def withStation (m : StationSet) (x : Station) : StationSet := m ||| oneStation x

/-- A \ B (Conventions). -/
def setMinus (m n : StationSet) : StationSet := m &&& ~~~n

/-- A ⊆ B (Conventions). -/
def subsetOf (m n : StationSet) : Bool := setMinus m n == 0#16

/-- The stations of a set, ascending. -/
def stationsOf (m : StationSet) : List Station := (List.finRange 16).filter (hasStation m)

/-! ## Sets of rows, ascending without repeats -/

/-- A row added to an ascending list; a row already present stays once (R127). -/
def insertRow (r : Nat) : List Nat → List Nat
  | [] => [r]
  | x :: xs => if r < x then r :: x :: xs else if r = x then x :: xs else x :: insertRow r xs

end Sys2Proof.Machine
end

