-- ==== Sys2Proof/Machine/Memory.lean ====
section
/-! DEFINITION. The frame banks as addressed memory (R117): each holds 512 columns × 320 rows of 24-bit pixels, three bytes a
pixel, red first. Every write of the manual is a run of consecutive pixels in one row, so one operation writes. -/

namespace Sys2Proof.Machine

/-- What an unlisted address reads as: 00h (assumption 3: the manual sets no contents before the bank clear). -/
def unlistedByte : Byte := 0#8

/-- The canonical form: addresses strictly rising, and no entry equal to what an unlisted address reads as. -/
abbrev Memory.wf (m : Memory) : Prop :=
  m.Pairwise (fun c d => c.1 < d.1) ∧ ∀ c ∈ m, c.2 ≠ unlistedByte

/-- Read one byte. -/
def readByte : Memory → Nat → Byte
  | [], _ => unlistedByte
  | (k, v) :: rest, a => if k = a then v else readByte rest a

/-- The cells of a run of bytes, those that read as an unlisted address left out. -/
def cellsOf : Nat → List Byte → Memory
  | _, [] => []
  | a, b :: bs => if b = unlistedByte then cellsOf (a + 1) bs else (a, b) :: cellsOf (a + 1) bs

/-- Write a run of bytes at consecutive addresses. -/
def writeRun (m : Memory) (start : Nat) (bytes : List Byte) : Memory :=
  m.filter (fun c => c.1 < start) ++ cellsOf start bytes ++ m.filter (fun c => start + bytes.length ≤ c.1)

/-- The address of the first byte of a pixel; local (0, 0) is the bank's first pixel (R117). -/
def pixelAddress (row col : Nat) : Nat := (row * Config.bankColumns + col) * 3

/-- Read one pixel. -/
def readPixel (m : Memory) (row col : Nat) : Pixel :=
  let a := pixelAddress row col
  pixelOfBytes [readByte m a, readByte m (a + 1), readByte m (a + 2)]

/-- Read consecutive pixels of a row. -/
def readRow (m : Memory) (row start count : Nat) : List Pixel :=
  (List.range count).map (fun i => readPixel m row (start + i))

/-- Write consecutive pixels of a row; pixels that lie outside the bank are not addressed (R118). -/
def writePixels (m : Memory) (row start : Nat) (pixels : List Pixel) : Memory :=
  if row < Config.bankRows ∧ start + pixels.length ≤ Config.bankColumns then
    writeRun m (pixelAddress row start) (pixels.flatMap pixelBytes)
  else m

/-- The other bank (R117). -/
def Bank.other : Bank → Bank
  | .a => .b
  | .b => .a

/-- The contents of a bank. -/
def FrameStore.bank (f : FrameStore) : Bank → Memory
  | .a => f.bankA
  | .b => f.bankB

/-- The Frame Store with the contents of one bank replaced. -/
def FrameStore.setBank (f : FrameStore) (bank : Bank) (m : Memory) : FrameStore :=
  match bank with
  | .a => { f with bankA := m }
  | .b => { f with bankB := m }

/-- The back bank (R117). -/
def FrameStore.back (f : FrameStore) : Bank := f.front.other

end Sys2Proof.Machine
end

