-- ==== Sys2Proof/Machine/TileMap.lean ====
section
/-! DEFINITION. The Tile Map's lookups (01_canvas_tiles_and_the_tile_map.md): owner, coordinate conversion, tile clip,
bounds test, digest; and the readings of the held configuration that other blocks take from it. -/

namespace Sys2Proof.Machine

/-- The tile record of a station, if it has one (R2). -/
def TileMap.tileFor (m : TileMap) (x : Station) : Option Tile := m.tiles.find? (fun t => t.station = x)

/-- The own tile record. R5 makes it present in every held map; a map without one gives an empty tile. -/
def TileMap.ownTile (m : TileMap) : Tile := (m.tileFor m.self).getD ⟨m.self, 0, 0, 0, 0⟩

/-- A canvas point lies in a tile (R2). -/
def Tile.covers (t : Tile) (x y : Nat) : Bool :=
  decide (t.x ≤ x ∧ x < t.x + t.width ∧ t.y ≤ y ∧ y < t.y + t.height)

/-- The owner lookup (R7): the tile record that covers the point; none in a gap or outside the canvas. -/
def TileMap.owner (m : TileMap) (x y : Nat) : Option Tile :=
  if x < m.width ∧ y < m.height then m.tiles.find? (fun t => t.covers x y) else none

/-- The tile clip (R10): none for "empty", else the local rectangle. -/
def Tile.clip (t : Tile) (r : Rect) : Option Rect :=
  if r.x1 < t.x ∨ t.x + t.width ≤ r.x0 ∨ r.y1 < t.y ∨ t.y + t.height ≤ r.y0 then none
  else some
    { x0 := max r.x0 t.x - t.x, y0 := max r.y0 t.y - t.y,
      x1 := min r.x1 (t.x + t.width - 1) - t.x, y1 := min r.y1 (t.y + t.height - 1) - t.y }

/-- A canvas rectangle of SET_WINDOW or FILL is in range (R1). -/
def TileMap.rectInCanvas (m : TileMap) (r : Rect) : Bool :=
  decide (r.x0 ≤ r.x1 ∧ r.x1 < m.width ∧ r.y0 ≤ r.y1 ∧ r.y1 < m.height)

/-- A local rectangle lies in a tile (R11 for a FILL, R182 for READ_FRONT). -/
def Tile.holdsRect (t : Tile) (r : Rect) : Bool :=
  decide (r.x0 ≤ r.x1 ∧ r.x1 < t.width ∧ r.y0 ≤ r.y1 ∧ r.y1 < t.height)

/-- The bounds test of R11 on an addressee's tile. -/
def Tile.holdsPaint (t : Tile) : Paint → Bool
  | .span row start pixels => decide (row < t.height ∧ start + pixels.length ≤ t.width)
  | .fill rect _ => t.holdsRect rect

/-- Two tiles overlap (R4). -/
def Tile.overlaps (s t : Tile) : Bool :=
  decide (s.x < t.x + t.width ∧ t.x < s.x + s.width ∧ s.y < t.y + t.height ∧ t.y < s.y + s.height)

/-- A tile lies inside the canvas (R3). -/
def Tile.inCanvas (t : Tile) (width height : Nat) : Bool :=
  decide (t.x + t.width ≤ width ∧ t.y + t.height ≤ height)

/-- Tile records in ascending order of station number (R2). -/
def sortTiles (tiles : List Tile) : List Tile :=
  (List.finRange 16).filterMap (fun x => tiles.find? (fun t => t.station = x))

/-- The byte sequence of the digest (R12). -/
def digestBytes (width height : Nat) (tiles : List Tile) : List Byte :=
  natToBytes 2 width ++ natToBytes 2 height ++
    tiles.flatMap (fun t => natToBytes 1 t.station.val ++ natToBytes 2 t.x ++ natToBytes 2 t.y ++
      natToBytes 2 t.width ++ natToBytes 2 t.height)

/-- The map digest (R12) of tiles in ascending order of station. -/
def mapDigest (width height : Nat) (tiles : List Tile) : Digest := crcOfBytes (digestBytes width height tiles)

/-! ## Readings of the held configuration -/

/-- A map is held (R15). -/
def State.mapHeld (s : State) : Bool := s.config.isSome

/-- The own station number; 0 where no map is held, in which states nothing reads it. -/
def State.self (s : State) : Station := match s.config with
  | some c => c.map.self
  | none => 0

/-- Width of the own tile: the active columns (R9). -/
def State.ownWidth (s : State) : Nat := match s.config with
  | some c => c.map.ownTile.width
  | none => 0

/-- Height of the own tile: the active rows (R9). -/
def State.ownHeight (s : State) : Nat := match s.config with
  | some c => c.map.ownTile.height
  | none => 0

/-- The digest of the held map. -/
def State.digest (s : State) : Option Digest := s.config.map (fun c => c.map.digest)

/-- The background colour of the PIXEL record, default black (R120). -/
def State.background (s : State) : Pixel := match s.config with
  | some c => c.background
  | none => 0#24

/-- The line time, in units of 0.1 µs (R68). -/
def State.lineTime (s : State) : Nat := match s.config with
  | some c => c.lineTime
  | none => 0

/-- The commit lead this station's control frames carry (R99). -/
def State.commitLead (s : State) : Nat := match s.config with
  | some c => c.commitLead
  | none => 0

/-- Bytes of a pixel in host format (R142). -/
def HostFormat.bytes : HostFormat → Nat
  | .rgb24 => 3
  | .rgb16 => 2

/-- The host format held; without a map R209 judges as for format 24. -/
def State.format (s : State) : HostFormat := match s.config with
  | some c => c.format
  | none => .rgb24

end Sys2Proof.Machine
end

