-- ==== Sys2Proof/Machine/Flags.lean ====
section
/-! DEFINITION. What the station shows: counters, event records and their queue, the output lines, the status record, the
panel output; every flag computation of the manual, each once. -/

namespace Sys2Proof.Machine

/-! ## Counters (R190) -/

/-- A counter increased by `n`; it stays at 65535 once it reaches it (R190). -/
def saturate (c : BitVec 16) (n : Nat) : BitVec 16 := BitVec.ofNat 16 (min 65535 (c.toNat + n))

/-- A counter decreased by the value copied for it (R191). -/
def lessCopied (c copied : BitVec 16) : BitVec 16 := BitVec.ofNat 16 (c.toNat - copied.toNat)

/-- Change the counters. -/
def State.count (s : State) (c : Counters) : State := s.setLp { s.lp with counters := c }

/-- Unowned pixels, R146. -/
def State.countUnowned (s : State) : State :=
  s.count { s.lp.counters with unownedPixels := saturate s.lp.counters.unownedPixels 1 }
/-- Overrun bytes, R142, R144. -/
def State.countOverrun (s : State) (n : Nat) : State :=
  s.count { s.lp.counters with overrunBytes := saturate s.lp.counters.overrunBytes n }
/-- Spans lost, R164, R165. -/
def State.countSpansLost (s : State) (n : Nat) : State :=
  s.count { s.lp.counters with spansLost := saturate s.lp.counters.spansLost n }
/-- Stale entries, R131, R132, R171. -/
def State.countStale (s : State) (n : Nat) : State :=
  s.count { s.lp.counters with staleEntries := saturate s.lp.counters.staleEntries n }
/-- Spoils seen, R40. -/
def State.countSpoil (s : State) : State :=
  s.count { s.lp.counters with spoilsSeen := saturate s.lp.counters.spoilsSeen 1 }
/-- Late flips, R106. -/
def State.countLateFlip (s : State) : State :=
  s.count { s.lp.counters with lateFlips := saturate s.lp.counters.lateFlips 1 }

/-- Every counter less the value copied for it (R191). -/
def Counters.minus (c k : Counters) : Counters :=
  { unownedPixels := lessCopied c.unownedPixels k.unownedPixels,
    overrunBytes := lessCopied c.overrunBytes k.overrunBytes,
    spansLost := lessCopied c.spansLost k.spansLost,
    staleEntries := lessCopied c.staleEntries k.staleEntries,
    spoilsSeen := lessCopied c.spoilsSeen k.spoilsSeen,
    lateFlips := lessCopied c.lateFlips k.lateFlips,
    eventsLost := lessCopied c.eventsLost k.eventsLost }

/-- The 14 bytes of READ_COUNTERS (11_formats.md, 11.4). -/
def Counters.bytes (c : Counters) : List Byte :=
  natToBytes 2 c.unownedPixels.toNat ++ natToBytes 2 c.overrunBytes.toNat ++ natToBytes 2 c.spansLost.toNat ++
    natToBytes 2 c.staleEntries.toNat ++ natToBytes 2 c.spoilsSeen.toNat ++ natToBytes 2 c.lateFlips.toNat ++
    natToBytes 2 c.eventsLost.toNat

/-! ## Event records (R186) and the event queue (R187) -/

/-- The kind codes of 11_formats.md, 11.4. -/
def EventKind.code : EventKind → Nat
  | .absent => 0 | .flipped => 1 | .lateFlip => 2 | .founded => 3 | .joined => 4 | .left => 5 | .dropped => 6
  | .evicted => 7 | .detached => 8 | .alone => 9 | .spanLost => 10 | .streamOverrun => 11 | .conflict => 12
  | .reference => 13 | .lock => 14 | .slip => 15 | .foreign => 16 | .configFault => 17

/-- The reason numbers: by order in R200, NO_END 1 through TILE_OVERLAP 10. -/
def FaultReason.code : FaultReason → Nat
  | .noEnd => 1 | .crcMismatch => 2 | .badValue => 3 | .duplicateRecord => 4 | .missingStation => 5
  | .missingCanvas => 6 | .missingPanel => 7 | .missingOwnTile => 8 | .tileOutsideCanvas => 9 | .tileOverlap => 10

/-- The numbering of lock states (11_formats.md, 11.4). -/
def LockState.code : LockState → Nat
  | .free => 0 | .acquiring => 1 | .locked => 2

/-- A record with a kind and no other field. -/
def EventRecord.only (k : EventKind) : EventRecord :=
  { kind := k, epoch := none, station := none, stations := none, value := none }

/-- FLIPPED(p) (R106). -/
def EventRecord.flipped (p : Epoch) : EventRecord := { EventRecord.only .flipped with epoch := some p }
/-- LATE_FLIP(p, lateness) (R107). -/
def EventRecord.lateFlip (p : Epoch) (lateness : BitVec 32) : EventRecord :=
  { EventRecord.only .lateFlip with epoch := some p, value := some lateness }
/-- JOINED(station) (R51, R53). -/
def EventRecord.joined (x : Station) : EventRecord := { EventRecord.only .joined with station := some x }
/-- LEFT(station) (R57). -/
def EventRecord.left (x : Station) : EventRecord := { EventRecord.only .left with station := some x }
/-- DROPPED(set, epoch) (R58). -/
def EventRecord.dropped (m : StationSet) (e : Epoch) : EventRecord :=
  { EventRecord.only .dropped with epoch := some e, stations := some m }
/-- EVICTED with cause DROPPED 0 or BEACON 1 (R54, R58). -/
def EventRecord.evicted (byBeacon : Bool) : EventRecord :=
  { EventRecord.only .evicted with value := some (if byBeacon then 1#32 else 0#32) }
/-- SPAN_LOST with cause RETRIES 0 or GONE 1 (R164, R165). -/
def EventRecord.spanLost (x : Station) (e : Epoch) (gone : Bool) : EventRecord :=
  { EventRecord.only .spanLost with epoch := some e, station := some x, value := some (if gone then 1#32 else 0#32) }
/-- CONFLICT with cause MAP 0 or ID 1 (R64). -/
def EventRecord.conflict (id : Bool) : EventRecord :=
  { EventRecord.only .conflict with value := some (if id then 1#32 else 0#32) }
/-- REFERENCE(source) (R74). -/
def EventRecord.reference (x : Station) : EventRecord := { EventRecord.only .reference with station := some x }
/-- LOCK(state) (R78). -/
def EventRecord.lock (l : LockState) : EventRecord :=
  { EventRecord.only .lock with value := some (BitVec.ofNat 32 l.code) }
/-- SLIP(epoch, set, change of the count) (R113). -/
def EventRecord.slip (e : Epoch) (m : StationSet) (change : BitVec 32) : EventRecord :=
  { EventRecord.only .slip with epoch := some e, stations := some m, value := some change }
/-- FOREIGN(sender) (R65). -/
def EventRecord.foreign (x : Station) : EventRecord := { EventRecord.only .foreign with station := some x }
/-- CONFIG_FAULT(reason) (R201). -/
def EventRecord.configFault (r : FaultReason) : EventRecord :=
  { EventRecord.only .configFault with value := some (BitVec.ofNat 32 r.code) }

/-- The 11 bytes of an event record (11_formats.md, 11.4): an absent field reads 0. -/
def EventRecord.bytes (e : EventRecord) : List Byte :=
  natToBytes 1 e.kind.code ++
    natToBytes 1 ((if e.epoch.isSome then 1 else 0) + (if e.station.isSome then 2 else 0) +
      (if e.stations.isSome then 4 else 0) + (if e.value.isSome then 8 else 0)) ++
    natToBytes 2 (e.epoch.elim 0 BitVec.toNat) ++ natToBytes 1 (e.station.elim 0 Fin.val) ++
    natToBytes 2 (e.stations.elim 0 BitVec.toNat) ++ natToBytes 4 (e.value.elim 0 BitVec.toNat)

/-- A block raises a record; it enters the queue at the end of the event (`closeEvent`). -/
def State.raise (s : State) (e : EventRecord) : State := s.setLp { s.lp with raised := s.lp.raised ++ [e] }

/-- A block raises a record that follows the other records of its event (R106, R37, R55). -/
def State.raiseAfter (s : State) (e : EventRecord) : State :=
  s.setLp { s.lp with raisedAfter := s.lp.raisedAfter ++ [e] }

/-- R187: a record enters the queue when there is room, else it is discarded and counted. -/
def Port.enqueue (p : Port) (e : EventRecord) : Port :=
  if p.events.length < Config.eventCapacity then { p with events := p.events ++ [e] }
  else { p with counters := { p.counters with eventsLost := saturate p.counters.eventsLost 1 } }

/-- A record placed at a position; past the end is the end. -/
def insertAt {α : Type} (x : α) : Nat → List α → List α
  | _, [] => [x]
  | 0, y :: ys => x :: y :: ys
  | n + 1, y :: ys => y :: insertAt x n ys

/-- The records of one event in the order they take where no rule gives one (R187): each stands at a free place among the
records after it. -/
def freeOrder {α : Type} : Nat → List α → List α
  | _, [] => []
  | k, x :: xs => insertAt x (Config.recordOrder k) (freeOrder (k + 1) xs)

/-- The records of the event in progress enter the event queue (R187). -/
def State.admitRaised (s : State) : State :=
  let records := freeOrder s.free s.lp.raised ++ s.lp.raisedAfter
  let port := records.foldl Port.enqueue { s.lp with raised := [], raisedAfter := [] }
  (s.setLp port).setFree (s.free + s.lp.raised.length)

/-! ## Output lines -/

/-- INT is asserted exactly while the event queue is not empty (R184). -/
def State.intLine (s : State) : Bool := !s.lp.events.isEmpty

/-- PRS is asserted until its release (R185). -/
def State.prsLine (s : State) : Bool := s.lp.prs.isSome

/-- The time at which CS_N rises on a transaction, where no row of the table says it (assumption 4). -/
def Transaction.rise : Transaction → Option Nat
  | .idle => none
  | .abandoned rise => rise
  | .stream _ => none
  | .readEvent _ => none
  | .readCounters _ => none
  | .readFront _ _ rise => some rise
  | .response rise => some rise

/-- CS_N is low at a time: a transaction is there, and its rise, where it has a time, is still to come. -/
def Transaction.lowAt (t : Transaction) (now : Nat) : Bool := t != .idle && t.rise.all (fun rise => decide (now < rise))

/-- A reset has abandoned the transaction (R173). -/
def Transaction.isAbandoned : Transaction → Bool
  | .abandoned _ => true
  | .idle => false
  | .stream _ => false
  | .readEvent _ => false
  | .readCounters _ => false
  | .readFront _ _ _ => false
  | .response _ => false

/-- CS_N is low: a transaction is in progress, or was when a reset abandoned it and CS_N has not risen since (R173). The
transactions whose rows are judged at the rise of CS_N lie within their rows. -/
def State.csLow (s : State) : Bool := s.lp.transaction.lowAt s.now

/-- MISO is driven: CS_N is low on a transaction that the port takes part in. It is released while CS_N is high, while RESET_N
is low, and after a reset until CS_N has risen and fallen (R173, R195). -/
def State.misoDriven (s : State) : Bool := s.csLow && !s.sl.resetLow && !s.lp.transaction.isAbandoned

/-- HOLD (R145, R183): asserted at 24 or more, released at 8 or fewer, kept between. -/
def holdLevel (was : Bool) (buffered : Nat) : Bool :=
  if Config.holdAssertAt ≤ buffered then true else if buffered ≤ Config.holdReleaseAt then false else was

/-- The result codes of 11_formats.md, 11.3. -/
def Result.code : Result → Byte
  | .ok => 0x00#8 | .badLength => 0x01#8 | .badParam => 0x02#8 | .wrongState => 0x03#8 | .held => 0x04#8
  | .busy => 0x05#8 | .unknown => 0x06#8 | .invalid => 0x07#8

/-! ## The collection record's readings -/

/-- The pending flip: the last commit while its flipped mark reads no (R86). -/
def Record.pendingFlip (r : Record) : Option LastCommit := r.last.filter (fun l => !l.flipped)

/-- The back-bank epoch b of a record (R114). -/
def Record.backEpoch (r : Record) : Epoch := match r.pendingFlip with
  | some l => l.epoch
  | none => r.collecting

/-- The back-bank epoch, for a station that holds a record (R114). -/
def State.backEpoch (s : State) : Option Epoch := s.cu.record.map Record.backEpoch

/-- The pending flip, for a station that holds a record. -/
def State.pendingFlip (s : State) : Option LastCommit := s.cu.record.bind Record.pendingFlip

/-! ## The status record (R192 to R194; 11_formats.md, 11.4) -/

/-- State codes. -/
def StationState.code : StationState → Nat
  | .loading => 0 | .awaitConfig => 1 | .fault => 2 | .listen => 3 | .joining => 4 | .member => 5 | .evicted => 6
  | .detached => 7 | .conflict => 8

/-- Phase codes. -/
def Phase.code : Phase → Nat
  | .absent => 0 | .idle => 1 | .building => 2 | .closing => 3 | .waiting => 4 | .held => 5

/-- Show state codes. -/
def ShowState.code : ShowState → Nat
  | .background => 0 | .front => 1

/-- The cause byte: by station state (R42). -/
def Membership.causeCode (m : Membership) : Nat :=
  match m.state, m.cause with
  | .fault, .fault r => r.code
  | .member, _ => if m.founder then 1 else 2
  | .evicted, .dropped => 1
  | .evicted, .beacon => 2
  | .conflict, .map => 1
  | .conflict, .id => 2
  | _, _ => 0

/-- The 31 bytes of the status record. -/
def State.statusBytes (s : State) : List Byte :=
  natToBytes 1 (match s.config with | some c => c.map.self.val | none => 0xFF) ++
    natToBytes 1 s.mu.state.code ++ natToBytes 1 s.mu.causeCode ++
    natToBytes 1 ((if s.mu.synced then 1 else 0) + (if s.cu.record.isSome then 2 else 0) +
      (if s.pendingFlip.isSome then 4 else 0)) ++
    natToBytes 1 s.cu.phase.code ++
    natToBytes 2 (s.cu.record.elim 0 (fun r => r.collecting.toNat)) ++
    natToBytes 2 (s.cu.record.elim 0 (fun r => r.required.toNat)) ++
    natToBytes 2 (s.cu.record.elim 0 (fun r => r.ready.toNat)) ++
    natToBytes 2 (s.pendingFlip.elim 0 (fun l => l.epoch.toNat)) ++
    natToBytes 4 (s.pendingFlip.elim 0 (fun l => l.flipFrame.toNat)) ++
    natToBytes 2 s.mu.members.toNat ++
    natToBytes 1 (match s.tu.source with | some x => x.val | none => 0xFF) ++
    natToBytes 1 s.tu.lock.code ++ natToBytes 4 s.tu.count.toNat ++
    natToBytes 1 s.lc.outbound.length ++ natToBytes 1 s.fs.inbound.length ++ natToBytes 2 s.fs.carry.length ++
    natToBytes 1 s.fs.showState.code ++ natToBytes 1 s.lp.events.length

/-! ## Reading the banks and the panel output -/

/-- A pixel of a bank as scan-out and READ_FRONT read it: while the bank clear runs, a row it has not reached reads as the
background colour (R122). -/
def State.bankPixel (s : State) (bank : Bank) (row col : Nat) : Pixel :=
  match s.fs.clear with
  | some k => if k.row ≤ row then s.background else readPixel (s.fs.bank bank) row col
  | none => readPixel (s.fs.bank bank) row col

/-- Scan-out's pixel of (col, row) (R120). -/
def State.scanPixel (s : State) (row col : Nat) : Pixel :=
  match s.fs.showState with
  | .background => s.background
  | .front => s.bankPixel s.fs.front row col

/-- The panel output group (R68). -/
structure PanelPins where
  pclkRuns : Bool
  hsync : Bool
  vsync : Bool
  de : Bool
  rgb : Pixel
  deriving DecidableEq, Repr

/-- PCLK stopped and HSYNC, VSYNC, DE and RGB low (R68). -/
def PanelPins.stopped : PanelPins := { pclkRuns := false, hsync := false, vsync := false, de := false, rgb := 0#24 }

/-- The panel output at the clock `now` plus `fine` periods of 12.5 ns, eight of which make one unit of 0.1 µs (R68). A
line that a correction lengthens is the last line of its blank (R79). -/
def State.panelPins (s : State) (fine : Nat) : PanelPins :=
  match s.config, s.tu.generator with
  | some c, some g =>
    match g.activeSince with
    | none =>
      let since := s.now - g.blankStart
      let line := min (since / c.lineTime) (c.blank - 1)
      let offset := since - line * c.lineTime
      { pclkRuns := true, hsync := decide (offset * 8 + fine < 32), vsync := decide (line < 2), de := false, rgb := 0#24 }
    | some a =>
      let since := s.now - a
      let row := since / c.lineTime
      let dot := (since % c.lineTime) * 8 + fine
      let de := decide (row < c.map.ownTile.height ∧ 80 ≤ dot ∧ dot < 80 + c.map.ownTile.width)
      { pclkRuns := true, hsync := decide (dot < 32), vsync := false, de := de,
        rgb := if de then s.scanPixel row (dot - 80) else 0#24 }
  | _, _ => PanelPins.stopped

/-- The two-wire controller drives neither line (R197, R202, R206): always but during the recovery and an attempt. -/
def State.configLinesReleased (s : State) : Bool :=
  match s.sl.loader with
  | .held | .off | .waiting _ _ => true
  | .recovery | .attempt _ | .reading => false

end Sys2Proof.Machine
end

