-- ==== Sys2Proof/Machine/Operands.lean ====
section
/-! DEFINITION. Operand forms: the parameters of Local Port commands, host pixels, and the bodies of link frames, both ways
(11_formats.md; R17, R26, R177, R208, R209). -/

namespace Sys2Proof.Machine

/-! ## Local Port parameters (R177) -/

/-- The length test of the commands judged at the rise of CS_N: exactly the parameter bytes and no partial byte. -/
def lengthIs (t : Tail) (n : Nat) : Bool := t.bytes.length == n && !t.partialByte

/-- Eight parameter bytes as a rectangle: x0, y0, x1, y1, each a number 0..65535 (R209). -/
def rectOfBytes (bs : List Byte) : Rect :=
  { x0 := bytesToNat (bs.take 2), y0 := bytesToNat ((bs.drop 2).take 2), x1 := bytesToNat ((bs.drop 4).take 2),
    y1 := bytesToNat ((bs.drop 6).take 2) }

/-- Five bits widened to eight: at the top, the top three repeated below (R142). -/
def widen5 (v : Nat) : Nat := v * 8 + v / 4

/-- Six bits widened to eight: at the top, the top two repeated below (R142). -/
def widen6 (v : Nat) : Nat := v * 4 + v / 16

/-- A 16-bit host pixel: red in bits 15..11, green in 10..5, blue in 4..0, widened (R142). -/
def widenPixel (v : Nat) : Pixel :=
  BitVec.ofNat 24 (widen5 (v / 2048 % 32) * 65536 + widen6 (v / 32 % 64) * 256 + widen5 (v % 32))

/-- A pixel or FILL colour from its bytes in host format (R142, R152). -/
def hostPixel (f : HostFormat) (bs : List Byte) : Pixel :=
  match f with
  | .rgb24 => pixelOfBytes bs
  | .rgb16 => widenPixel (bytesToNat bs)

/-! ## Link frames (R17, R18) -/

/-- The frame kinds. -/
inductive FrameKind where
  | beacon | join | leave | ready | drop | fill | span
  deriving DecidableEq, Repr

/-- Kind codes (11_formats.md, 11.1). -/
def FrameKind.code : FrameKind → BitVec 4
  | .beacon => 0x0#4 | .join => 0x1#4 | .leave => 0x2#4 | .ready => 0x3#4 | .drop => 0x4#4 | .fill => 0x8#4 | .span => 0xC#4

/-- Contention classes (R18). -/
def FrameKind.cls : FrameKind → BitVec 2
  | .beacon => 0#2 | .join => 1#2 | .leave => 1#2 | .ready => 1#2 | .drop => 1#2 | .fill => 2#2 | .span => 3#2

end Sys2Proof.Machine

namespace Sys2Proof

open Sys2Proof.Machine

/-- The bits of kind, length, length complement and body, in the order sent: what the CRC is taken over (R17). -/
def WireFrame.coveredBits (f : WireFrame) : List Bool :=
  nibbleBits f.kind ++ byteBits f.length ++ byteBits f.complement ++ bytesBits f.body

/-- The bits from class through CRC, in the order sent, without the marks (R17): the first six are the contention field. A bit of
value 0 is sent driven, a bit of value 1 released. -/
def WireFrame.bits (f : WireFrame) : List Bool :=
  [f.cls.getLsbD 1, f.cls.getLsbD 0] ++ nibbleBits f.station ++ f.coveredBits ++ bytesBits (natToBytes 2 f.crc.toNat)

/-- A line level: a driven bit period (R16, R17). -/
def driven : Bool := false

/-- A line level: a released bit period (R16, R17). -/
def released : Bool := true

/-- A mark, one driven bit, after every eighth bit (R17). -/
def withMarks : List Bool → List Bool
  | a :: b :: c :: d :: e :: f :: g :: h :: rest => a :: b :: c :: d :: e :: f :: g :: h :: driven :: withMarks rest
  | bits => bits

/-- The bits between the marks as a receiver reads them; none when a mark position reads released: such a frame is cut short
(R22). -/
def unmarked : List Bool → Option (List Bool)
  | a :: b :: c :: d :: e :: f :: g :: h :: mark :: rest =>
    if mark = driven then (unmarked rest).map (fun bits => [a, b, c, d, e, f, g, h] ++ bits) else none
  | bits => some bits

/-- What the transmitter sends up to the turnaround: the start field, class through CRC with their marks, the final mark (R17). -/
def WireFrame.sent (f : WireFrame) : List Bool := driven :: withMarks f.bits ++ [driven]

/-- The bit periods of a frame from start field to end mark, with the TAKE and SPOIL slots driven or not (R17, R28). -/
def WireFrame.line (f : WireFrame) (take spoil : Bool) : List Bool :=
  f.sent ++ [released, if take then driven else released, if spoil then driven else released, driven]

/-- The end gap: 11 released bit periods, at which the link is idle (R16, R17). -/
def endGap : List Bool := List.replicate 11 released

/-- The CRC a receiver computes (R26). -/
def WireFrame.crcComputed (f : WireFrame) : BitVec 16 := crcOfBits f.coveredBits

/-- The length and its complement agree, and the length is at most 200 (R25). -/
def WireFrame.lengthFound (f : WireFrame) : Bool := f.complement == ~~~f.length && decide (f.length.toNat ≤ 200)

/-- The sender's station number. -/
def WireFrame.sender (f : WireFrame) : Station := f.station.toFin

end Sys2Proof

namespace Sys2Proof.Machine

/-- The frame of a kind from a station with a body (R17, R24, R160). -/
def makeFrame (k : FrameKind) (x : Station) (body : List Byte) : WireFrame :=
  let length := BitVec.ofNat 8 body.length
  let covered := nibbleBits k.code ++ byteBits length ++ byteBits (~~~length) ++ bytesBits body
  { cls := k.cls, station := BitVec.ofFin x, kind := k.code, length := length, complement := ~~~length, body := body,
    crc := crcOfBits covered }

/-! ## Bodies -/

/-- The first five bytes of every control body (R99). -/
structure Completing where
  stamp : FrameCount
  lead : Nat
  deriving DecidableEq, Repr

/-- The BEACON body (R73, R109). -/
structure BeaconBody where
  count : FrameCount
  launchDelay : Nat
  digest : Digest
  members : StationSet
  collecting : Epoch
  required : StationSet
  ready : StationSet
  last : Option (Epoch × FrameCount)
  deriving DecidableEq, Repr

/-- The JOIN body. -/
structure JoinBody where
  completing : Completing
  digest : Digest
  deriving DecidableEq, Repr

/-- The LEAVE body. -/
structure LeaveBody where
  completing : Completing
  deriving DecidableEq, Repr

/-- The READY body. -/
structure ReadyBody where
  completing : Completing
  epoch : Epoch
  deriving DecidableEq, Repr

/-- The DROP body. -/
structure DropBody where
  completing : Completing
  epoch : Epoch
  stations : StationSet
  deriving DecidableEq, Repr

/-- The SPAN and FILL bodies; the addressee is a whole byte. -/
structure PaintBody where
  addressee : Nat
  epoch : Epoch
  paint : Paint
  deriving DecidableEq, Repr

/-- The five bytes of `Completing`. -/
def Completing.bytes (c : Completing) : List Byte := natToBytes 4 c.stamp.toNat ++ natToBytes 1 c.lead

/-- Reading them back. -/
def completingOf (bs : List Byte) : Completing :=
  { stamp := BitVec.ofNat 32 (bytesToNat (bs.take 4)), lead := bytesToNat ((bs.drop 4).take 1) }

/-- The 24 bytes of a beacon. -/
def BeaconBody.bytes (b : BeaconBody) : List Byte :=
  natToBytes 4 b.count.toNat ++ natToBytes 3 b.launchDelay ++ natToBytes 2 b.digest.toNat ++
    natToBytes 2 b.members.toNat ++ natToBytes 2 b.collecting.toNat ++ natToBytes 2 b.required.toNat ++
    natToBytes 2 b.ready.toNat ++ natToBytes 1 (if b.last.isSome then 1 else 0) ++
    natToBytes 2 (b.last.elim 0 (fun l => l.1.toNat)) ++ natToBytes 4 (b.last.elim 0 (fun l => l.2.toNat))

/-- The 7 bytes of a JOIN. -/
def JoinBody.bytes (b : JoinBody) : List Byte := b.completing.bytes ++ natToBytes 2 b.digest.toNat

/-- The 5 bytes of a LEAVE. -/
def LeaveBody.bytes (b : LeaveBody) : List Byte := b.completing.bytes

/-- The 7 bytes of a READY. -/
def ReadyBody.bytes (b : ReadyBody) : List Byte := b.completing.bytes ++ natToBytes 2 b.epoch.toNat

/-- The 9 bytes of a DROP. -/
def DropBody.bytes (b : DropBody) : List Byte :=
  b.completing.bytes ++ natToBytes 2 b.epoch.toNat ++ natToBytes 2 b.stations.toNat

/-- The bytes of a SPAN (8 + 3 × count) or a FILL (14). -/
def PaintBody.bytes (b : PaintBody) : List Byte :=
  natToBytes 1 b.addressee ++ natToBytes 2 b.epoch.toNat ++
    match b.paint with
    | .span row start pixels =>
      natToBytes 2 row ++ natToBytes 2 start ++ natToBytes 1 pixels.length ++ pixels.flatMap pixelBytes
    | .fill r colour =>
      natToBytes 2 r.x0 ++ natToBytes 2 r.y0 ++ natToBytes 2 r.x1 ++ natToBytes 2 r.y1 ++ pixelBytes colour

/-- The number in `n` bytes of a body from byte `i`. -/
def field (bs : List Byte) (i n : Nat) : Nat := bytesToNat ((bs.drop i).take n)

/-- A BEACON body of an allowed length, with no value that R208 marks invalid; none for a length or format error. -/
def readBeacon (sender : Station) (bs : List Byte) : Option BeaconBody :=
  if bs.length = 24 then
    let members := BitVec.ofNat 16 (field bs 9 2)
    let required := BitVec.ofNat 16 (field bs 13 2)
    let ready := BitVec.ofNat 16 (field bs 15 2)
    let present := field bs 17 1
    if field bs 4 3 ≤ Config.launchDelayMax ∧ hasStation members sender ∧ subsetOf required members ∧
        subsetOf ready required ∧ present ≤ 1 ∧ (present = 0 → field bs 18 6 = 0) then
      some
        { count := BitVec.ofNat 32 (field bs 0 4), launchDelay := field bs 4 3, digest := BitVec.ofNat 16 (field bs 7 2),
          members := members, collecting := BitVec.ofNat 16 (field bs 11 2), required := required, ready := ready,
          last := if present = 1 then some (BitVec.ofNat 16 (field bs 18 2), BitVec.ofNat 32 (field bs 20 4)) else none }
    else none
  else none

/-- The commit lead is valid (R208). -/
def Completing.valid (c : Completing) : Bool := decide (1 ≤ c.lead ∧ c.lead ≤ 4)

/-- A JOIN body (R208). -/
def readJoin (bs : List Byte) : Option JoinBody :=
  if bs.length = 7 ∧ (completingOf bs).valid then
    some { completing := completingOf bs, digest := BitVec.ofNat 16 (field bs 5 2) }
  else none

/-- A LEAVE body (R208). -/
def readLeave (bs : List Byte) : Option LeaveBody :=
  if bs.length = 5 ∧ (completingOf bs).valid then some { completing := completingOf bs } else none

/-- A READY body (R208). -/
def readReady (bs : List Byte) : Option ReadyBody :=
  if bs.length = 7 ∧ (completingOf bs).valid then
    some { completing := completingOf bs, epoch := BitVec.ofNat 16 (field bs 5 2) }
  else none

/-- A DROP body: an empty station set is invalid (R208). -/
def readDrop (bs : List Byte) : Option DropBody :=
  if bs.length = 9 ∧ (completingOf bs).valid ∧ field bs 7 2 ≠ 0 then
    some { completing := completingOf bs, epoch := BitVec.ofNat 16 (field bs 5 2),
           stations := BitVec.ofNat 16 (field bs 7 2) }
  else none

/-- The addressee of a SPAN or FILL is a station other than the sender, and the paint lies in its tile in this station's
map (R11, R26, R208). -/
def paintInBounds (map : Option TileMap) (sender : Station) (b : PaintBody) : Bool :=
  if h : b.addressee < 16 then
    b.addressee != sender.val &&
      match map.bind (fun m => m.tileFor ⟨b.addressee, h⟩) with
      | some t => t.holdsPaint b.paint
      | none => false
  else false

/-- A SPAN body of length 8 + 3 × count, count 1..64 (R26, R208). -/
def readSpan (map : Option TileMap) (sender : Station) (bs : List Byte) : Option PaintBody :=
  let count := field bs 7 1
  if 8 ≤ bs.length ∧ bs.length = 8 + 3 * count ∧ 1 ≤ count ∧ count ≤ 64 then
    let b : PaintBody :=
      { addressee := field bs 0 1, epoch := BitVec.ofNat 16 (field bs 1 2),
        paint := .span (field bs 3 2) (field bs 5 2) (pixelsOfBytes (bs.drop 8)) }
    if paintInBounds map sender b then some b else none
  else none

/-- A FILL body (R26, R208). -/
def readFill (map : Option TileMap) (sender : Station) (bs : List Byte) : Option PaintBody :=
  if bs.length = 14 then
    let b : PaintBody :=
      { addressee := field bs 0 1, epoch := BitVec.ofNat 16 (field bs 1 2),
        paint := .fill { x0 := field bs 3 2, y0 := field bs 5 2, x1 := field bs 7 2, y1 := field bs 9 2 }
          (pixelOfBytes (bs.drop 11)) }
    if paintInBounds map sender b then some b else none
  else none

end Sys2Proof.Machine
end

