-- ==== Sys2Proof/Machine/Ops.lean ====
section
/-! DEFINITION. The operations that several commands share, one for each passage the manual describes once: holdoffs and
control slots, the span builder, the bank writer, teardown, the entry to LISTEN, founding, removal, commit, the flip test. -/

namespace Sys2Proof.Machine

/-! ## Time -/

/-- The time `dt` passes. -/
def State.advance (s : State) (dt : Nat) : State := s.setNow (s.now + dt)

/-- A record is in holdoff while its expiry lies in the future (R33, R158). -/
def Retry.inHoldoff (r : Retry) (now : Nat) : Bool := match r.expiry with
  | some e => decide (now < e)
  | none => false

/-- The holdoff after attempt count `n`: 20 µs × 2^(n−1), limited to 1,280 µs (R33, R163). -/
def holdoff (n : Nat) : Nat := min Config.holdoffLimit (Config.holdoffFirst * 2 ^ (n - 1))

/-- The attempt count increased by 1, saturating at 255, and the holdoff started (R32, R33). -/
def Retry.heldOff (r : Retry) (now : Nat) : Retry :=
  let n := min Config.byteMax (r.attempts + 1)
  { attempts := n, expiry := some (now + holdoff n) }

/-! ## Control slots (R30, R31) -/

/-- Replace the control slots. -/
def State.setSlots (s : State) (v : Slots) : State := s.setLc { s.lc with slots := v }

/-- The attempt count and holdoff of an occupied slot. -/
def Slots.retry (v : Slots) : ControlSlot → Option Retry
  | .drop => v.drop.map DropSlot.retry
  | .leave => v.leave
  | .join => v.join
  | .ready => v.ready.map ReadySlot.retry

/-- The slots with the attempt count and holdoff of an occupied slot replaced. -/
def Slots.setRetry (v : Slots) (c : ControlSlot) (r : Retry) : Slots :=
  match c with
  | .drop => { v with drop := v.drop.map (fun d => { d with retry := r }) }
  | .leave => { v with leave := v.leave.map (fun _ => r) }
  | .join => { v with join := v.join.map (fun _ => r) }
  | .ready => { v with ready := v.ready.map (fun d => { d with retry := r }) }

/-- A DROP request (R30): the slot is filled, or the stations join its set. -/
def State.requestDrop (s : State) (m : StationSet) : State :=
  match s.lc.slots.drop with
  | none => s.setSlots { s.lc.slots with drop := some { stations := m, retry := Retry.fresh } }
  | some d => s.setSlots { s.lc.slots with drop := some { d with stations := d.stations ||| m } }

/-- Stations leave the DROP set; an empty set empties the slot (R31). -/
def State.dropLoses (s : State) (m : StationSet) : State :=
  match s.lc.slots.drop with
  | none => s
  | some d =>
    if setMinus d.stations m = 0#16 then s.setSlots { s.lc.slots with drop := none }
    else s.setSlots { s.lc.slots with drop := some { d with stations := setMinus d.stations m } }

/-- The record of an addressee returned to count 0 with no holdoff (R158). -/
def State.freshAddressee (s : State) (x : Station) : State :=
  s.setLc { s.lc with addressees := s.lc.addressees.set x.val Retry.fresh x.isLt }

/-! ## The span builder (R146 to R151) -/

/-- Replace the pixel input buffer; HOLD is decided afresh (R145). -/
def State.setBuffer (s : State) (b : List BufferedPixel) : State :=
  s.setWe { s.we with buffer := b, hold := holdLevel s.we.hold b.length }

/-- A span as an entry of the Outbound Queue (R148). -/
def Run.entry (r : Run) : OutEntry := { addressee := r.addressee, epoch := r.epoch, paint := .span r.row r.start r.pixels }

/-- A closed run is presented to the bank writer, unless an earlier local run is there or waits (R147), or enters the
Outbound Queue, unless that is full (R148) or an earlier span waits for it (assumption 12); else it waits. -/
def State.offerRun (s : State) (r : Run) : State :=
  if r.addressee = s.self then
    if s.we.localRun = none ∧ s.we.waitingLocals = [] then s.setWe { s.we with localRun := some r }
    else s.setWe { s.we with waitingLocals := s.we.waitingLocals ++ [r] }
  else if s.lc.outbound.length < Config.outboundCapacity ∧ s.we.waitingSpans = [] then
    s.setLc { s.lc with outbound := s.lc.outbound ++ [r.entry] }
  else s.setWe { s.we with waitingSpans := s.we.waitingSpans ++ [r] }

/-- The open run closes (R147, R149). -/
def State.closeOpenRun (s : State) : State :=
  match s.we.openRun with
  | none => s
  | some r => (s.setWe { s.we with openRun := none }).offerRun r

/-- A closed run waits in the builder, a span or a local run: the router takes no pixel (R146, R148). -/
def Window.runWaits (w : Window) : Bool := !w.waitingSpans.isEmpty || !w.waitingLocals.isEmpty

/-- The stream path is empty (R151). -/
def State.streamPathEmpty (s : State) : Bool :=
  s.we.buffer.isEmpty && s.we.openRun.isNone && !s.we.runWaits && s.we.localRun.isNone

/-- The drain test of R91, for a station that holds a record. -/
def State.drained (s : State) : Bool :=
  match s.cu.record with
  | none => false
  | some r =>
    s.streamPathEmpty && s.we.job.isNone && s.lc.outbound.all (fun e => e.epoch != r.collecting) && s.fs.carry.isEmpty

/-! ## The bank writer (R123 to R129) -/

/-- The carry policy held. -/
def State.carryPolicy (s : State) : CarryPolicy := match s.config with
  | some c => c.policy
  | none => .keep

/-- The pixels that the carry of a row writes into columns 0..width−1 (R129). -/
def State.carriedPixels (s : State) (row : Nat) : List Pixel :=
  match s.carryPolicy with
  | .keep => readRow (s.fs.bank s.fs.front) row 0 s.ownWidth
  | .clear => List.replicate s.ownWidth s.background

/-- What an operation writes: first column and pixels. -/
def State.operationWrite (s : State) (o : Operation) : Nat × List Pixel :=
  if o.requester = .carry ∨ o.onDemand then (0, s.carriedPixels o.row) else (o.start, o.pixels)

/-- Write a run of pixels into a bank. -/
def State.writeBank (s : State) (bank : Bank) (row start : Nat) (pixels : List Pixel) : State :=
  s.setFs (s.fs.setBank bank (writePixels (s.fs.bank bank) row start pixels))

/-- The pixels of an abandoned operation: each the new one or the one that stood there, as a free value says. -/
def partialPixels (k : Nat) : Nat → List Pixel → List Pixel → List Pixel
  | i, new :: news, old :: olds =>
    (if Config.partialWrite k i then new else old) :: partialPixels k (i + 1) news olds
  | _, _, _ => []

/-- The operation in progress is abandoned and may leave its row partly written (R136). -/
def State.abandonOperation (s : State) : State :=
  match s.fs.operation with
  | none => s
  | some o =>
    let (start, pixels) := s.operationWrite o
    let old := readRow (s.fs.bank o.bank) o.row start pixels.length
    let t := (s.writeBank o.bank o.row start (partialPixels s.free 0 pixels old)).setFree (s.free + 1)
    t.setFs { t.fs with operation := none }

/-- Rows of an inbound entry: one operation for a SPAN, one per row for a FILL (R133). -/
def Paint.rows : Paint → Nat
  | .span _ _ _ => 1
  | .fill r _ => r.y1 + 1 - r.y0

/-- A requester holds a request, while no operation of its own is in progress (R123). The applier presents the head's
operations when its epoch is b, and nothing when it is b + 1 (R132); for a head of another epoch, which a commit that replaces
a pending flip can leave (R100), the manual gives none, and the model presents none (assumption 19). -/
def State.holdsRequest (s : State) : Requester → Bool
  | .stream => s.we.localRun.isSome
  | .localFill => s.we.job.isSome
  | .inbound => match s.fs.inbound with
    | h :: _ => !h.leaving && s.backEpoch == some h.epoch
    | [] => false
  | .carry => !s.fs.carry.isEmpty

/-- The cycle stream, local fill, inbound, carry, from the one after the last served (R124). -/
def cycleAfter : Requester → List Requester
  | .carry => [.stream, .localFill, .inbound, .carry]
  | .stream => [.localFill, .inbound, .carry, .stream]
  | .localFill => [.inbound, .carry, .stream, .localFill]
  | .inbound => [.carry, .stream, .localFill, .inbound]

/-- The requester of the next grant. -/
def State.nextRequester (s : State) : Option Requester := (cycleAfter s.fs.lastServed).find? s.holdsRequest

/-- The operation a requester's request asks for: epoch, row, first column, pixels. -/
def State.requested (s : State) : Requester → Option (Epoch × Nat × Nat × List Pixel)
  | .stream => s.we.localRun.map (fun r => (r.epoch, r.row, r.start, r.pixels))
  | .localFill => s.we.job.map (fun j =>
      (j.epoch, j.nextRow, j.rect.x0, List.replicate (j.rect.x1 + 1 - j.rect.x0) j.colour))
  | .inbound => s.fs.inbound.head?.map (fun h =>
      match h.paint with
      | .span row start pixels => (h.epoch, row, start, pixels)
      | .fill r colour => (h.epoch, r.y0 + h.rowsDone, r.x0, List.replicate (r.x1 + 1 - r.x0) colour))
  | .carry => s.fs.carry.head?.map (fun row => (s.backEpoch.getD 0#16, row, 0, []))

/-- The row of a write joins the dirty row set when the write begins; a carry's does not (R127). -/
def FrameStore.dirtied (f : FrameStore) (o : Operation) : FrameStore :=
  if o.requester = .carry then f else { f with dirty := insertRow o.row f.dirty }

/-- A grant (R124): the operation begins in the back bank; a write to a row still to be carried begins with its carry
(R125). -/
def State.beginOperation (s : State) (q : Requester) : State :=
  match s.requested q with
  | none => s
  | some (epoch, row, start, pixels) =>
    let demand := q != .carry && s.fs.carry.contains row
    let o : Operation :=
      { requester := q, epoch := epoch, row := row, start := start, pixels := pixels, bank := s.fs.back, onDemand := demand }
    let f := { s.fs with operation := some o, lastServed := q }
    s.setFs (if demand then f else f.dirtied o)

/-! ## Leaving and entering (R45, R61) -/

/-- The control slots, the Outbound Queue and the addressee table emptied (R41, R167). -/
def Link.emptied (l : Link) : Link :=
  { l with flight := none, slots := Slots.empty, outbound := [], addressees := freshAddressees }

/-- The engine's part of a teardown: everything but window and cursor (R154). -/
def Window.emptied (w : Window) : Window :=
  { w with assembler := [], buffer := [], hold := false, openRun := none, waitingSpans := [], waitingLocals := [],
           localRun := none, job := none }

/-- A taken stream transaction in progress is ended for the engine; its result stays (R141, R154). -/
def Port.endStream (p : Port) : Port :=
  match p.transaction with
  | .stream t => { p with transaction := .stream { t with epoch := none } }
  | .idle => p
  | .abandoned _ => p
  | .readEvent _ => p
  | .readCounters _ => p
  | .readFront _ _ _ => p
  | .response _ => p

/-- A change of lock state raises LOCK (R78). -/
def State.setLock (s : State) (l : LockState) : State :=
  if s.tu.lock = l then s else (s.setTu { s.tu with lock := l }).raise (EventRecord.lock l)

/-- Teardown at entry to EVICTED, DETACHED or CONFLICT (R61, R84, R115, R136, R154). -/
def State.teardown (s : State) (state : StationState) (cause : Cause) : State :=
  let s := s.abandonOperation.setLock .free
  let s := s.setMu { s.mu with state := state, cause := cause, synced := false, founder := false, members := 0#16, foreign := 0#16 }
  let s := s.setLc s.lc.emptied
  let s := s.setTu { s.tu with source := none, silent := 0, held := none }
  let s := s.setCu Commit.reset
  let s := s.setFs { s.fs with inbound := [], carry := [] }
  let s := s.setWe s.we.emptied
  (s.setLp s.lp.endStream).setHanded Handed.clear

/-- Entry to CONFLICT (R64). -/
def State.enterConflict (s : State) (id : Bool) : State :=
  (s.teardown .conflict (if id then .id else .map)).raise (EventRecord.conflict id)

/-- Eviction (R54, R58). -/
def State.evict (s : State) (byBeacon : Bool) : State :=
  (s.teardown .evicted (if byBeacon then .beacon else .dropped)).raise (EventRecord.evicted byBeacon)

/-- Entry to DETACHED (R57). -/
def State.detach (s : State) : State := (s.teardown .detached .absent).raise (EventRecord.only .detached)

/-- Entry to LISTEN (R45, R84, R115, R121). -/
def State.enterListen (s : State) : State :=
  let s := s.setMu (Membership.reset .listen)
  let s := s.setLc s.lc.emptied
  let s := s.setTu { s.tu with source := none, silent := 0 }
  let s := s.setCu Commit.reset
  let s := s.setFs { s.fs with dirty := [], carry := [], inbound := [], showState := .background,
                               clear := some { begun := s.now, row := 0 } }
  s.setHanded Handed.clear

/-- Founding (R51, R55): table {self}, count 0, epoch 0 in BUILDING. The event is raised by the caller. -/
def State.found (s : State) : State :=
  let s := s.setMu { s.mu with state := .member, synced := true, founder := true, members := oneStation s.self }
  let s := s.setTu { s.tu with count := 0#32, silent := 0 }
  s.setCu
    { record := some { collecting := 0#16, required := oneStation s.self, ready := 0#16, last := none },
      phase := .building, timer := 0 }

/-- A MEMBER that is unsynced and whose table holds self and no other station (R55). -/
def State.refoundDue (s : State) : Bool :=
  decide (s.mu.state = .member) && !s.mu.synced && s.mu.members == oneStation s.self

/-- Such a station founds again at the end of the event (R55). -/
def State.refound (s : State) : State :=
  if s.refoundDue then s.found.raiseAfter (EventRecord.only .founded) else s

/-- The end of every event: R55, then the records raised enter the event queue (R187). -/
def closeEvent (s : State) : State := s.refound.admitRaised

/-! ## The collection record (R95 to R100) -/

/-- Replace the collection record. -/
def State.setRecord (s : State) (r : Record) : State := s.setCu { s.cu with record := some r }

/-- Stations leave R and Y (R95). -/
def State.recordLoses (s : State) (m : StationSet) : State :=
  match s.cu.record with
  | none => s
  | some r => s.setRecord { r with required := setMinus r.required m, ready := setMinus r.ready m }

/-- The phase of a synced member at a commit or flip-pending moment: HELD when self is in R, otherwise IDLE (R100). R100 gives
this for WAITING and IDLE; BUILDING, CLOSING and HELD, which it does not list, are taken alike (assumption 37). -/
def Phase.atCommit (p : Phase) (selfRequired : Bool) : Phase :=
  match p with
  | .absent => .absent
  | .idle | .building | .closing | .waiting | .held => if selfRequired then .held else .idle

/-- The commit of the collecting epoch on a completing frame (R98, R100). -/
def State.commit (s : State) (r : Record) (k : Completing) : State :=
  let r' : Record :=
    { collecting := r.collecting + 1, required := s.mu.members, ready := 0#16,
      last := some { epoch := r.collecting, flipFrame := k.stamp + BitVec.ofNat 32 k.lead, flipped := false } }
  let s' := s.setCu
    { record := some r', phase := s.cu.phase.atCommit (hasStation s.mu.members s.self), timer := 0 }
  s'.setSlots { s'.lc.slots with drop := none }

/-- The completion check (R97). -/
def State.completionCheck (s : State) (k : Completing) : State :=
  match s.cu.record with
  | none => s
  | some r => if subsetOf r.required r.ready then s.commit r k else s

/-! ## Removals handed on (R44) -/

/-- The epochs of what the Outbound Queue and the builder hold for a station: the queue's entries, oldest first, then the
builder's spans, a waiting one before the open run. R150 and R165 speak of one span of the builder; where it holds a waiting
one and an open run for the station, the model counts each and takes the waiting one's epoch first (assumption 36). -/
def State.heldFor (s : State) (x : Station) : List Epoch :=
  (s.lc.outbound.filter (fun e => e.addressee = x)).map OutEntry.epoch ++
    (s.we.waitingSpans.filter (fun r => r.addressee = x)).map Run.epoch ++
    (s.we.openRun.filter (fun r => r.addressee = x)).toList.map Run.epoch

/-- The queue and the builder without the entries and spans of a station; its addressee record is fresh (R150, R165). -/
def State.withoutEntries (s : State) (x : Station) : State :=
  let t := (s.setLc { s.lc with outbound := s.lc.outbound.filter (fun e => e.addressee ≠ x) }).freshAddressee x
  t.setWe { t.we with waitingSpans := t.we.waitingSpans.filter (fun r => r.addressee ≠ x),
                      openRun := t.we.openRun.filter (fun r => r.addressee ≠ x) }

/-- The discard counted and reported, when there was one: the event's epoch is that of the oldest (R165). -/
def State.reportGone (s : State) (x : Station) (lost : List Epoch) : State :=
  match lost with
  | [] => s
  | e :: _ => (s.countSpansLost lost.length).raise (EventRecord.spanLost x e true)

/-- The Outbound Queue and the builder discard what they hold for a removed station (R150, R165). -/
def State.discardFor (s : State) (x : Station) : State := (s.withoutEntries x).reportGone x (s.heldFor x)

/-- The removals of one event, handed to the control slots, the Outbound Queue and the builder (R44); the record and the
ranks are the caller's. -/
def State.handOnRemovals (s : State) (m : StationSet) : State :=
  (stationsOf m).foldl State.discardFor (s.dropLoses m)

/-! ## Beacon loss (R81, R82) -/

/-- The rank k: members other than the source whose numbers are lower than self. -/
def rank (members : StationSet) (source self : Station) : Nat :=
  ((stationsOf members).filter (fun x => x ≠ source ∧ x < self)).length

/-- The beacon-loss test: the source whose DROP is to be requested. -/
def State.lostSource (s : State) : Option Station :=
  match s.tu.source with
  | none => none
  | some x =>
    if s.mu.state = .member ∧ hasStation s.mu.members x ∧ x ≠ s.self ∧
        3 + 2 * rank s.mu.members x s.self ≤ s.tu.silent then some x else none

/-- The test made at a change of the member table (R81, R82). -/
def State.rankRetest (s : State) : State :=
  match s.lostSource with
  | some x => s.requestDrop (oneStation x)
  | none => s

/-! ## The flip test (R105, R134) -/

/-- The first condition of R105: the count has reached F, or F lies 9 or more frames ahead. -/
def flipFrameReached (count flipFrame : FrameCount) : Bool :=
  decide ((count - flipFrame).toNat < 2 ^ 31) ||
    decide (9 ≤ (flipFrame - count).toNat ∧ (flipFrame - count).toNat ≤ 2 ^ 31)

/-- The second and third conditions of R105, for a pending flip of epoch p, as R134 answers them. -/
def State.flipDrained (s : State) (p : Epoch) : Bool :=
  s.fs.inbound.all (fun e => e.epoch != p) &&
    s.fs.operation.all (fun o => o.epoch != p) && s.we.localRun.all (fun r => r.epoch != p) &&
    s.we.job.all (fun j => j.epoch != p) && s.fs.carry.isEmpty

/-! ## The verdict slots' view of the station -/

/-- What a verdict slot is decided on at this moment (R27, R168). -/
def State.slotViewNow (s : State) : SlotView :=
  { state := s.mu.state, synced := s.mu.synced, members := s.mu.members, backEpoch := s.backEpoch,
    inbound := s.fs.inbound.length }

/-- An event that falls between the TAKE slot and the delivery of the frame on the wire leaves the slots decided on the
state before it (R131, R168). -/
def State.latchSlots (s : State) (inVerdict : Bool) : State :=
  if inVerdict && s.lc.view = .inFrame && s.lc.slotView.isNone then
    s.setLc { s.lc with slotView := some s.slotViewNow }
  else s

end Sys2Proof.Machine
end

