-- ==== Sys2Proof/Machine/FollowOn.lean ====
section
/-! DEFINITION. The rows that the rules place inside the event of another row (assumption 1): each waits for nothing but its
own condition, and `settle` makes all that are due before the next command, so that none can fall in between. `event` is the
frame of every other command: what is due, the passing of time, the command's own part, the end of the event. -/

namespace Sys2Proof.Machine

/-- The carry list of a flip (R128): under KEEP the dirty rows, under CLEAR every row of the tile. -/
def State.carryRows (s : State) : List Nat :=
  match s.carryPolicy with
  | .keep => s.fs.dirty
  | .clear => List.range s.ownHeight

/-- The Frame Store's part of the flip (R128). -/
def State.swapBanks (s : State) : State :=
  s.setFs { s.fs with front := s.fs.back, carry := s.carryRows, dirty := [], showState := .front }

/-- The Commit Unit's part of the flip (R106). -/
def State.passFlip (s : State) (r : Record) (l : LastCommit) : State :=
  s.setCu { s.cu with record := some { r with last := some { l with flipped := true } },
                      phase := if hasStation r.required s.self then .building else .idle }

/-- PRS is asserted for one line time from the vertical start, and FLIPPED raised (R106, R185). -/
def State.reportFlip (s : State) (p : Epoch) : State :=
  (s.setLp { s.lp with prs := some ((s.tu.generator.bind Generator.lastVertical).getD s.now + s.lineTime) }).raise
    (EventRecord.flipped p)

/-- A late or early flip raises LATE_FLIP after FLIPPED and counts (R107). -/
def State.reportLateness (s : State) (l : LastCommit) : State :=
  if s.tu.count = l.flipFrame then s
  else s.countLateFlip.raiseAfter (EventRecord.lateFlip l.epoch (s.tu.count - l.flipFrame))

/-- The flip (R106, R107, R128). -/
def State.takeFlip (s : State) (r : Record) (l : LastCommit) : State :=
  ((s.swapBanks.passFlip r l).reportFlip l.epoch).reportLateness l

/-- FLIP: taken when the vertical start found it due (R105, R106). -/
def State.flipBody (s : State) : State :=
  if s.handed.flip then
    let t := s.setHanded { s.handed with flip := false }
    match s.cu.record with
    | none => t
    | some r => match r.pendingFlip with
      | none => t
      | some l => t.takeFlip r l
  else s

/-- FLIP_PASSED (R108). -/
def State.flipPassedBody (s : State) : State :=
  if s.handed.flipPassed then
    let t := s.setHanded { s.handed with flipPassed := false }
    match s.cu.record with
    | none => t
    | some r => match r.pendingFlip with
      | none => t
      | some l => t.setRecord { r with last := some { l with flipped := true } }
  else s

/-- LOCK_LOSS (R80). -/
def State.lockLossBody (s : State) : State :=
  if s.handed.lockLoss then (s.setHanded { s.handed with lockLoss := false }).setLock .free else s

/-- BEACON_LOSS (R81). -/
def State.beaconLossBody (s : State) : State :=
  if s.handed.beaconLoss then (s.setHanded { s.handed with beaconLoss := false }).rankRetest else s

/-- READY_WAIT_EXPIRY: DROP(R \ Y) is requested (R102). -/
def State.readyWaitBody (s : State) : State :=
  if s.handed.readyWait then
    let t := s.setHanded { s.handed with readyWait := false }
    match s.cu.record with
    | none => t
    | some r =>
      if setMinus r.required r.ready = 0#16 then t else t.requestDrop (setMinus r.required r.ready)
  else s

/-- Row 319 of the bank clear has been cleared (R121). -/
def State.clearOver (s : State) : Bool := match s.fs.clear with
  | some k => decide (Config.bankRows ≤ k.row)
  | none => false

/-- BANK_CLEAR_END (R121). -/
def State.bankClearEndBody (s : State) : State :=
  if s.clearOver then s.setFs { s.fs with clear := none } else s

/-- The listen count has reached 4 and the bank clear has ended (R49). -/
def State.joiningDue (s : State) : Bool :=
  decide (s.mu.state = .listen) && decide (s.mu.listenCount = Config.listenPeriod) && s.fs.clear.isNone

/-- JOINING_PASSAGE (R49). -/
def State.joiningPassageBody (s : State) : State :=
  if s.joiningDue then
    let t := s.setMu { s.mu with state := .joining }
    t.setSlots { t.lc.slots with join := some Retry.fresh }
  else s

/-- The places free in the Outbound Queue (R156). -/
def State.outboundRoom (s : State) : Nat := Config.outboundCapacity - s.lc.outbound.length

/-- The spans waiting in the builder that find room in the Outbound Queue (R148). -/
def State.admissibleSpans (s : State) : List Run := s.we.waitingSpans.take s.outboundRoom

/-- WAITING_SPAN_ADMIT (R148, R157): the waiting spans that find room enter, in the order they closed. -/
def State.waitingSpanBody (s : State) : State :=
  let t := s.setLc { s.lc with outbound := s.lc.outbound ++ s.admissibleSpans.map Run.entry }
  t.setWe { t.we with waitingSpans := s.we.waitingSpans.drop s.outboundRoom }

/-- The drain test passes in CLOSING and READY(c) is not queued yet (R91): the collecting epoch. -/
def State.readyDue (s : State) : Option Epoch :=
  if s.cu.phase = .closing ∧ s.drained ∧ s.lc.slots.ready = none then s.cu.record.map Record.collecting else none

/-- READY_QUEUED (R91). -/
def State.readyQueuedBody (s : State) : State :=
  match s.readyDue with
  | some c => s.setSlots { s.lc.slots with ready := some { epoch := c, retry := Retry.fresh } }
  | none => s

/-- The requester that the idle writer grants now (R124). -/
def State.grantDue (s : State) : Option Requester :=
  if s.fs.operation.isSome then none else s.nextRequester

/-- BANK_WRITER_GRANT (R124). -/
def State.grantBody (s : State) : State :=
  match s.grantDue with
  | some q => s.beginOperation q
  | none => s

/-- The rows that follow inside an event, each when it is due, as the end of that event. The fixed order is the model's
(assumption 1). It also orders the records of one vertical start: FLIPPED and LATE_FLIP enter the event queue before LOCK(FREE),
where R187 leaves either order (assumption 40). -/
def settle (s : State) : State :=
  let s := closeEvent s.flipBody
  let s := closeEvent s.flipPassedBody
  let s := closeEvent s.lockLossBody
  let s := closeEvent s.beaconLossBody
  let s := closeEvent s.readyWaitBody
  let s := closeEvent s.bankClearEndBody
  let s := closeEvent s.joiningPassageBody
  let s := closeEvent s.waitingSpanBody
  let s := closeEvent s.readyQueuedBody
  closeEvent s.grantBody

/-- Nothing is due and no record waits to enter the event queue: the state between two events. -/
abbrev Quiet (s : State) : Prop :=
  s.handed = Handed.clear ∧ s.lp.raised = [] ∧ s.lp.raisedAfter = [] ∧ s.refoundDue = false ∧ s.clearOver = false ∧
    s.joiningDue = false ∧ s.admissibleSpans = [] ∧ s.readyDue = none ∧ s.grantDue = none

/-- One of the rows that follow inside an event, commanded by itself. -/
def followOn (body : State → State) (s : State) : Host.Outcome State Fault Refusal := .next (closeEvent (body s))

/-- A command that is an event of its own: the event before it ends, `dt` passes, the command's own part is made, and its
event ends. -/
def event (dt : Nat) (body : State → State) (s : State) : Host.Outcome State Fault Refusal :=
  .next (closeEvent (body ((settle s).advance dt)))

end Sys2Proof.Machine
end

