-- ==== Sys2Proof/Machine/BankWriter.lean ====
section
/-! DEFINITION. The Frame Store's rows (06_the_frame_store.md): the bank clear and the bank writer. -/

namespace Sys2Proof.Machine

/-- The next row of the bank clear is due: row r at the end of the (r + 1)th line time (R121). -/
def State.clearDue (s : State) : Option BankClear :=
  s.fs.clear.filter (fun k => decide (k.row < Config.bankRows ∧ k.begun + (k.row + 1) * s.lineTime ≤ s.now))

/-- One row of both banks takes the background colour in all 512 columns (R121). -/
def State.clearRow (s : State) (k : BankClear) : State :=
  let colours := List.replicate Config.bankColumns s.background
  s.setFs { s.fs with bankA := writePixels s.fs.bankA k.row 0 colours, bankB := writePixels s.fs.bankB k.row 0 colours,
                      clear := some { k with row := k.row + 1 } }

/-- BANK_CLEAR_ROW (R121). -/
def State.bankClearRowBody (s : State) : State :=
  match s.clearDue with
  | some k => s.clearRow k
  | none => s

/-- BANK_CLEAR_ROW. -/
def execBankClearRow (dt : Nat) (s : State) : Host.Outcome State Fault Refusal := event dt State.bankClearRowBody s

/-- BANK_CLEAR_END (R121). -/
def execBankClearEnd (s : State) : Host.Outcome State Fault Refusal := followOn State.bankClearEndBody s

/-- BANK_WRITER_GRANT (R124). -/
def execBankWriterGrant (s : State) : Host.Outcome State Fault Refusal := followOn State.grantBody s

/-- The stream requester is told (R147): the first of the local runs that wait is presented. -/
def State.streamTold (s : State) : State :=
  s.setWe { s.we with localRun := s.we.waitingLocals.head?, waitingLocals := s.we.waitingLocals.tail }

/-- The local fill requester is told (R153): the next row, or the job's end. -/
def State.fillTold (s : State) : State :=
  s.setWe { s.we with job := s.we.job.bind (fun j =>
    if j.rect.y1 ≤ j.nextRow then none else some { j with nextRow := j.nextRow + 1 }) }

/-- The applier is told (R133): the head leaves after its last operation, or when an adoption has removed it (R132). -/
def State.inboundTold (s : State) : State :=
  match s.fs.inbound with
  | [] => s
  | h :: rest =>
    if h.leaving ∨ h.paint.rows ≤ h.rowsDone + 1 then s.setFs { s.fs with inbound := rest }
    else s.setFs { s.fs with inbound := { h with rowsDone := h.rowsDone + 1 } :: rest }

/-- A row leaves the carry list (R129). -/
def State.carried (s : State) (row : Nat) : State := s.setFs { s.fs with carry := s.fs.carry.erase row }

/-- The requester of an ended operation is told (R123). -/
def State.tell (s : State) (o : Operation) : State :=
  match o.requester with
  | .stream => s.streamTold
  | .localFill => s.fillTold
  | .inbound => s.inboundTold
  | .carry => s.carried o.row

/-- The pixels of an operation, or of the carry on demand before it, land in the bank it began in (R118, R123, R125). -/
def State.landOperation (s : State) (o : Operation) : State :=
  s.writeBank o.bank o.row (s.operationWrite o).1 (s.operationWrite o).2

/-- The carry on demand has ended: the row leaves the carry list and the write begins, within the same grant (R125,
R127). -/
def State.beginWrite (s : State) (o : Operation) : State :=
  let w : Operation := { o with onDemand := false, bank := s.fs.back }
  let t := s.carried o.row
  t.setFs ({ t.fs with operation := some w }.dirtied w)

/-- BANK_WRITER_OP_END (R123). -/
def State.operationEndBody (inVerdict : Bool) (s : State) : State :=
  match s.fs.operation with
  | none => s
  | some o =>
    let t := (s.latchSlots inVerdict).landOperation o
    if o.onDemand then t.beginWrite o else (t.setFs { t.fs with operation := none }).tell o

/-- BANK_WRITER_OP_END. -/
def execBankWriterOpEnd (dt : Nat) (inVerdict : Bool) (s : State) : Host.Outcome State Fault Refusal :=
  event dt (State.operationEndBody inVerdict) s

end Sys2Proof.Machine
end

