-- ==== Sys2Proof/Machine/LocalPort.lean ====
section
/-! DEFINITION. The Local Port's transactions (09_the_local_port.md): when one is taken, what MISO returns, the result, and
the rows NOP, UNKNOWN, EMPTY_TRANSACTION and the reads. -/

namespace Sys2Proof.Machine

/-- A transaction can begin: RESET_N is high (R173), and no transaction that has a row for its end is in progress. Of the others,
and after a reset, a row that begins a transaction stands for a CS_N that has risen and fallen since (R173; assumption 4). -/
def State.portReady (s : State) : Bool :=
  !s.sl.resetLow && match s.lp.transaction with
    | .idle => true
    | .abandoned _ => true
    | .readFront _ _ _ => true
    | .response _ => true
    | .stream _ => false
    | .readEvent _ => false
    | .readCounters _ => false

/-- A transaction begins: the last result is the first MISO byte (R174), `response` the bytes after it. -/
def State.openPort (s : State) (transaction : Transaction) (response : List Byte) : State :=
  s.setLp { s.lp with miso := s.lp.lastResult.code :: response, transaction := transaction }

/-- The last result is set (R175). -/
def State.setResult (s : State) (r : Result) : State := s.setLp { s.lp with lastResult := r }

/-- What a command judged at the rise of CS_N does: the new state and its result. -/
abbrev Judged := State × Result

/-- A transaction that holds one command judged at the rise of CS_N: its effect, then its result (R175, R176). -/
def State.judged (judge : State → Judged) (s : State) : State :=
  if s.portReady then
    let j := judge (s.openPort .idle [])
    j.1.setResult j.2
  else s

/-- A whole transaction whose command is judged at the rise of CS_N (R176). -/
def transaction (dt : Nat) (judge : State → Judged) (s : State) : Host.Outcome State Fault Refusal :=
  event dt (State.judged judge) s

/-- A command with a fixed count of parameter bytes: the length test comes first (R176, R177). -/
def exactLength (t : Tail) (n : Nat) (s : State) (judge : State → Judged) : Judged :=
  if lengthIs t n then judge s else (s, .badLength)

/-- NOP (R179). -/
def execNop (dt : Nat) (tail : Tail) (s : State) : Host.Outcome State Fault Refusal :=
  transaction dt (fun s => exactLength tail 0 s (fun s => (s, .ok))) s

/-- UNKNOWN (R176): its bytes are ignored. -/
def execUnknown (dt : Nat) (_code : Byte) (_tail : Tail) (s : State) : Host.Outcome State Fault Refusal :=
  transaction dt (fun s => (s, .unknown)) s

/-- EMPTY_TRANSACTION (R173): no command is taken and the last result stands; the MISO byte begun is the last result. -/
def State.emptyTransactionBody (s : State) : State := if s.portReady then s.openPort .idle [] else s

/-- EMPTY_TRANSACTION. -/
def execEmptyTransaction (dt : Nat) (_clocks : Nat) (s : State) : Host.Outcome State Fault Refusal :=
  event dt State.emptyTransactionBody s

/-- READ_STATUS (R192): the copy is made when the command byte is complete, and the result is OK wherever CS_N rises; CS_N stays
low for `low` from here. -/
def State.readStatusBody (low : Nat) (s : State) : State :=
  if s.portReady then (s.openPort (.response (s.now + low)) s.statusBytes).setResult .ok else s

/-- READ_STATUS. -/
def execReadStatus (time : ReadTime) (s : State) : Host.Outcome State Fault Refusal :=
  event time.dt (State.readStatusBody time.low) s

/-- READ_EVENT (R188): the copy of the oldest record, or kind NONE. -/
def State.readEventBody (s : State) : State :=
  if s.portReady then
    s.openPort (.readEvent s.lp.events.head?) ((s.lp.events.head?).getD (EventRecord.only .absent)).bytes
  else s

/-- READ_EVENT. -/
def execReadEvent (dt : Nat) (s : State) : Host.Outcome State Fault Refusal := event dt State.readEventBody s

/-- READ_EVENT_RELEASE (R188): a record clocked whole leaves the queue; of a read that a reset has abandoned only CS_N rises
(R173). -/
def State.readEventReleaseBody (clocked : Nat) (s : State) : State :=
  match s.lp.transaction with
  | .readEvent copied =>
    if 11 ≤ clocked then
      s.setLp { s.lp with transaction := .idle, lastResult := .ok,
                          events := if copied.isSome then s.lp.events.drop 1 else s.lp.events }
    else s.setLp { s.lp with transaction := .idle, lastResult := .badLength }
  | .abandoned _ => s.setLp { s.lp with transaction := .idle }
  | .idle => s
  | .stream _ => s
  | .readCounters _ => s
  | .readFront _ _ _ => s
  | .response _ => s

/-- READ_EVENT_RELEASE. -/
def execReadEventRelease (dt clocked : Nat) (s : State) : Host.Outcome State Fault Refusal :=
  event dt (State.readEventReleaseBody clocked) s

/-- READ_COUNTERS (R191): the copy of all seven. -/
def State.readCountersBody (s : State) : State :=
  if s.portReady then s.openPort (.readCounters s.lp.counters) s.lp.counters.bytes else s

/-- READ_COUNTERS. -/
def execReadCounters (dt : Nat) (s : State) : Host.Outcome State Fault Refusal := event dt State.readCountersBody s

/-- READ_COUNTERS_RELEASE (R191): when all 14 bytes were clocked, each counter loses the value copied for it; of a read that
a reset has abandoned only CS_N rises (R173). -/
def State.readCountersReleaseBody (clocked : Nat) (s : State) : State :=
  match s.lp.transaction with
  | .readCounters copied =>
    if 14 ≤ clocked then
      s.setLp { s.lp with transaction := .idle, lastResult := .ok, counters := s.lp.counters.minus copied }
    else s.setLp { s.lp with transaction := .idle, lastResult := .badLength }
  | .abandoned _ => s.setLp { s.lp with transaction := .idle }
  | .idle => s
  | .stream _ => s
  | .readEvent _ => s
  | .readFront _ _ _ => s
  | .response _ => s

/-- READ_COUNTERS_RELEASE. -/
def execReadCountersRelease (dt clocked : Nat) (s : State) : Host.Outcome State Fault Refusal :=
  event dt (State.readCountersReleaseBody clocked) s

/-- READ_FRONT (R182): judged at its last parameter byte; MISO reads 0 while the parameters arrive (R174). CS_N stays low for
`low` from there; a CS_N that rises before the last parameter byte has risen at the row (R177). -/
def State.readFrontBody (low : Nat) (params : List Byte) (s : State) : State :=
  if s.portReady then
    let zeros := List.replicate 8 0x00#8
    let rise := s.now + low
    if params.length < 8 then (s.openPort .idle (List.replicate params.length 0x00#8)).setResult .badLength
    else match s.config with
      | none => (s.openPort (.response rise) zeros).setResult .wrongState
      | some c =>
        let rect := rectOfBytes params
        if c.map.ownTile.holdsRect rect then (s.openPort (.readFront rect rect.y0 rise) zeros).setResult .ok
        else (s.openPort (.response rise) zeros).setResult .badParam
  else s

/-- READ_FRONT. -/
def execReadFront (time : ReadTime) (params : List Byte) (s : State) : Host.Outcome State Fault Refusal :=
  event time.dt (State.readFrontBody time.low params) s

/-- READ_FRONT_ROW (R135, R182): while CS_N is low, the next row is read whole from the bank the front pointer now names; during
the bank clear a row not yet cleared reads as the background colour (R122). The rise of CS_N has ended the readback. -/
def State.readFrontRowBody (s : State) : State :=
  match s.lp.transaction with
  | .readFront rect row rise =>
    if row ≤ rect.y1 ∧ s.now < rise then
      let pixels := (List.range (rect.x1 + 1 - rect.x0)).map (fun i => s.bankPixel s.fs.front row (rect.x0 + i))
      s.setLp { s.lp with miso := s.lp.miso ++ pixels.flatMap pixelBytes, transaction := .readFront rect (row + 1) rise }
    else s
  | .idle => s
  | .abandoned _ => s
  | .stream _ => s
  | .readEvent _ => s
  | .readCounters _ => s
  | .response _ => s

/-- READ_FRONT_ROW. -/
def execReadFrontRow (dt : Nat) (s : State) : Host.Outcome State Fault Refusal := event dt State.readFrontRowBody s

end Sys2Proof.Machine
end

