-- ==== Sys2Proof/Machine/CommitUnit.lean ====
section
/-! DEFINITION. The Commit Unit's rows (05_epochs_and_the_commit_protocol.md): PRESENT, READY_QUEUED, READY_WAIT_EXPIRY,
FLIP and FLIP_PASSED. -/

namespace Sys2Proof.Machine

/-- PRESENT after its length test (R90). -/
def State.judgePresent (s : State) : Judged :=
  match s.cu.phase with
  | .absent => (s, .wrongState)
  | .building => (s.setCu { s.cu with phase := .closing }, .ok)
  | .idle => (s, .held)
  | .closing => (s, .held)
  | .waiting => (s, .held)
  | .held => (s, .held)

/-- PRESENT (R90). -/
def execPresent (dt : Nat) (tail : Tail) (s : State) : Host.Outcome State Fault Refusal :=
  transaction dt (fun s => exactLength tail 0 s State.judgePresent) s

/-- READY_QUEUED (R91). -/
def execReadyQueued (s : State) : Host.Outcome State Fault Refusal := followOn State.readyQueuedBody s

/-- READY_WAIT_EXPIRY (R102). -/
def execReadyWaitExpiry (s : State) : Host.Outcome State Fault Refusal := followOn State.readyWaitBody s

/-- FLIP (R106). -/
def execFlip (s : State) : Host.Outcome State Fault Refusal := followOn State.flipBody s

/-- FLIP_PASSED (R108). -/
def execFlipPassed (s : State) : Host.Outcome State Fault Refusal := followOn State.flipPassedBody s

end Sys2Proof.Machine
end

