-- ==== Sys2Proof/Machine/StartUpLoader.lean ====
section
/-! DEFINITION. The Start-up Loader (10_start_up_and_configuration.md): the EEPROM rows, the host load, and the validation
that both share. -/

namespace Sys2Proof.Machine

/-! ## Records (R196; 11_formats.md, 11.2) -/

/-- The payload length of a known record's tag. -/
def payloadLength (tag : Byte) : Option Nat :=
  match tag.toNat with
  | 0 => some 0
  | 1 => some 1
  | 2 => some 4
  | 3 => some 9
  | 4 => some 3
  | 5 => some 2
  | 6 => some 5
  | _ => none

/-- A record as bytes: tag, length, payload. -/
def ConfigRecord.bytes (r : ConfigRecord) : List Byte := r.tag :: BitVec.ofNat 8 r.payload.length :: r.payload

/-- The fields of a known record lie in their allowed values (R1, R2, R196). -/
def ConfigRecord.fieldsAllowed (r : ConfigRecord) : Bool :=
  let p := r.payload
  match r.tag.toNat with
  | 1 => decide (field p 0 1 ≤ 15)
  | 2 => decide (1 ≤ field p 0 2 ∧ field p 0 2 ≤ 4096 ∧ 1 ≤ field p 2 2 ∧ field p 2 2 ≤ 4096)
  | 3 => decide (field p 0 1 ≤ 15 ∧ field p 1 2 ≤ 4095 ∧ field p 3 2 ≤ 4095 ∧ 1 ≤ field p 5 2 ∧ field p 5 2 ≤ 512 ∧
      1 ≤ field p 7 2 ∧ field p 7 2 ≤ 320)
  | 4 => decide (80 ≤ field p 0 2 ∧ field p 0 2 ≤ 2000 ∧ 4 ≤ field p 2 1)
  | 5 => decide (2 ≤ field p 0 1 ∧ field p 0 1 ≤ 60 ∧ 1 ≤ field p 1 1 ∧ field p 1 1 ≤ 4)
  | 6 => decide ((field p 0 1 = 16 ∨ field p 0 1 = 24) ∧ field p 1 1 ≤ 1)
  | _ => true

/-- A known record of another payload length, or with a field outside its allowed values (R196). -/
def ConfigRecord.badValue (r : ConfigRecord) : Bool :=
  match payloadLength r.tag with
  | some n => r.payload.length != n || !r.fieldsAllowed
  | none => false

/-- The records of an image through its END record, and the bytes after that record; none while no END record is
complete. The first argument bounds the number of records. -/
def recordsOf : Nat → List Byte → Option (List ConfigRecord × List Byte)
  | n + 1, tag :: length :: rest =>
    if rest.length < length.toNat then none
    else
      let r : ConfigRecord := { tag := tag, payload := rest.take length.toNat }
      if tag = 0x00#8 then some ([r], rest.drop length.toNat)
      else (recordsOf n (rest.drop length.toNat)).map (fun p => (r :: p.1, p.2))
  | _, _ => none

/-- Records of one tag, in the order of the image. -/
def withTag (records : List ConfigRecord) (tag : Byte) : List ConfigRecord := records.filter (fun r => r.tag = tag)

/-- The tile of a TILE record. -/
def ConfigRecord.tile (r : ConfigRecord) : Tile :=
  let p := r.payload
  { station := Fin.ofNat 16 (field p 0 1), x := field p 1 2, y := field p 3 2, width := field p 5 2,
    height := field p 7 2 }

/-- The tile records of an image. -/
def tilesOf (records : List ConfigRecord) : List Tile := (withTag records 0x03#8).map ConfigRecord.tile

/-! ## Validation (R200) -/

/-- No value stands twice in a list. -/
def noRepeat {α : Type} [DecidableEq α] : List α → Bool
  | [] => true
  | x :: xs => !xs.contains x && noRepeat xs

/-- Two records of a kind that may stand once, or two TILE records for one station (R200, order 4). -/
def hasDuplicate (records : List ConfigRecord) : Bool :=
  [0x01#8, 0x02#8, 0x04#8, 0x05#8, 0x06#8].any (fun tag => 1 < (withTag records tag).length) ||
    !noRepeat ((tilesOf records).map Tile.station)

/-- The station number of the STATION record. -/
def stationIn (records : List ConfigRecord) : Station :=
  Fin.ofNat 16 (((withTag records 0x01#8).head?).elim 0 (fun r => field r.payload 0 1))

/-- Canvas width and height of the CANVAS record. -/
def canvasIn (records : List ConfigRecord) : Nat × Nat :=
  ((withTag records 0x02#8).head?).elim (0, 0) (fun r => (field r.payload 0 2, field r.payload 2 2))

/-- The first reason of R200 that applies to a complete image: its records, the bytes its CRC covers, and its CRC. -/
def imageFault (records : List ConfigRecord) (covered : List Byte) (crc : BitVec 16) : Option FaultReason :=
  let tiles := tilesOf records
  if crcOfBytes covered ≠ crc then some .crcMismatch
  else if records.any ConfigRecord.badValue then some .badValue
  else if hasDuplicate records then some .duplicateRecord
  else if (withTag records 0x01#8).isEmpty then some .missingStation
  else if (withTag records 0x02#8).isEmpty then some .missingCanvas
  else if (withTag records 0x04#8).isEmpty then some .missingPanel
  else if !tiles.any (fun t => t.station = stationIn records) then some .missingOwnTile
  else if tiles.any (fun t => !t.inCanvas (canvasIn records).1 (canvasIn records).2) then some .tileOutsideCanvas
  else if tiles.any (fun t => tiles.any (fun u => t.station ≠ u.station ∧ t.overlaps u)) then some .tileOverlap
  else none

/-- The settings of a valid image, with the defaults of R196. -/
def configurationOf (records : List ConfigRecord) : Configuration :=
  let size := canvasIn records
  let tiles := sortTiles (tilesOf records)
  let panel := ((withTag records 0x04#8).head?).elim [] ConfigRecord.payload
  let common := (withTag records 0x05#8).head?
  let pixel := (withTag records 0x06#8).head?
  { map := { width := size.1, height := size.2, tiles := tiles, self := stationIn records,
             digest := mapDigest size.1 size.2 tiles },
    lineTime := field panel 0 2, blank := field panel 2 1,
    readyLimit := common.elim 8 (fun r => field r.payload 0 1),
    commitLead := common.elim 2 (fun r => field r.payload 1 1),
    format := pixel.elim .rgb24 (fun r => if field r.payload 0 1 = 16 then .rgb16 else .rgb24),
    policy := pixel.elim .keep (fun r => if field r.payload 1 1 = 1 then .clear else .keep),
    background := pixel.elim 0#24 (fun r => pixelOfBytes (r.payload.drop 2)) }

/-- Validation (R200): the reason, or the settings. -/
def validate (records : List ConfigRecord) (covered : List Byte) (crc : BitVec 16) : Except FaultReason Configuration :=
  match imageFault records covered crc with
  | some r => .error r
  | none => .ok (configurationOf records)

/-! ## The two outcomes (R201, R202) -/

/-- No further read, and no record held. -/
def StartUp.done (l : StartUp) : StartUp := { l with loader := .off, image := [], hostImage := [] }

/-- A failed validation (R201). -/
def State.failLoad (s : State) (r : FaultReason) : State :=
  let t := s.setMu { Membership.reset .fault with cause := .fault r }
  (t.setSl t.sl.done).raise (EventRecord.configFault r)

/-- The write window and the cursor of a fresh engine: the own tile (R138). -/
def Window.home (w : Window) (t : Tile) : Window :=
  { w with window := some { x0 := t.x, y0 := t.y, x1 := t.x + t.width - 1, y1 := t.y + t.height - 1 },
           cursor := some (t.x, t.y) }

/-- The receiver waits for the next idle when a frame is on the wire (R16). -/
def Link.leaveFrame (l : Link) : Link := if l.view = .inFrame then { l with view := .gap } else l

/-- A successful load (R202): the settings are held, the generator starts at the first line of a blank, which is no
vertical start (R68), and the station enters LISTEN. -/
def State.load (s : State) (c : Configuration) : State :=
  let t := (s.setConfig (some c)).setTu
    { s.tu with generator := some { blankStart := s.now, correction := none, activeSince := none, lastVertical := none } }
  let t := t.setWe (t.we.home c.map.ownTile)
  let t := (t.setSl t.sl.done).enterListen
  t.setLc t.lc.leaveFrame

/-- Validation and its outcome (R200 to R202). -/
def State.conclude (s : State) (v : Except FaultReason Configuration) : State :=
  match v with
  | .error r => s.failLoad r
  | .ok c => s.load c

/-! ## The EEPROM (R197 to R199) -/

/-- Replace the loader of the two-wire controller. -/
def State.setLoader (s : State) (l : Loader) : State := s.setSl { s.sl with loader := l }

/-- An attempt fails (R198): the 5 ms wait, or AWAIT_CONFIG after the third. -/
def State.failAttempt (s : State) (number : Nat) : State :=
  if 3 ≤ number then (s.setLoader .off).setMu (Membership.reset .awaitConfig)
  else s.setLoader (.waiting number (s.now + Config.eepromRetryWait))

/-- EEPROM_ATTEMPT (R198): the addressing of one attempt, with the first missing acknowledge if there is one. -/
def State.eepromAttemptBody (missing : Option AckBit) (s : State) : State :=
  match s.sl.loader with
  | .recovery => if missing.isSome then s.failAttempt 1 else s.setLoader .reading
  | .attempt n => if missing.isSome then s.failAttempt n else s.setLoader .reading
  | .held => s
  | .waiting _ _ => s
  | .reading => s
  | .off => s

/-- EEPROM_ATTEMPT. -/
def execEepromAttempt (dt : Nat) (missing : Option AckBit) (s : State) : Host.Outcome State Fault Refusal :=
  event dt (State.eepromAttemptBody missing) s

/-- EEPROM_RETRY_WAIT_EXPIRY (R198). -/
def State.eepromExpiryBody (s : State) : State :=
  match s.sl.loader with
  | .waiting n expiry => if expiry ≤ s.now then s.setLoader (.attempt (n + 1)) else s
  | .held => s
  | .recovery => s
  | .attempt _ => s
  | .reading => s
  | .off => s

/-- EEPROM_RETRY_WAIT_EXPIRY. -/
def execEepromRetryWaitExpiry (dt : Nat) (s : State) : Host.Outcome State Fault Refusal :=
  event dt State.eepromExpiryBody s

/-- The image read so far is complete: END and its payload, and the two CRC bytes (R199). -/
def completeImage (image : List Byte) : Option (List ConfigRecord) :=
  match recordsOf image.length image with
  | some (records, rest) => if rest.length = 2 then some records else none
  | none => none

/-- EEPROM_BYTE (R199): the read stops after the CRC, or with byte 1,023, and validation follows. -/
def State.eepromByteBody (value : Byte) (s : State) : State :=
  match s.sl.loader with
  | .reading =>
    let image := s.sl.image ++ [value]
    match completeImage image with
    | some records =>
      s.conclude (validate records (image.take (image.length - 2))
        (BitVec.ofNat 16 (bytesToNat (image.drop (image.length - 2)))))
    | none =>
      if Config.imageLimit ≤ image.length then s.failLoad .noEnd else s.setSl { s.sl with image := image }
  | .held => s
  | .recovery => s
  | .attempt _ => s
  | .waiting _ _ => s
  | .off => s

/-- EEPROM_BYTE. -/
def execEepromByte (dt : Nat) (value : Byte) (s : State) : Host.Outcome State Fault Refusal :=
  event dt (State.eepromByteBody value) s

/-! ## The host load (R203 to R205, R209) -/

/-- AWAIT_CONFIG or FAULT (R178). -/
def State.awaitsRecords (s : State) : Bool := decide (s.mu.state = .awaitConfig) || decide (s.mu.state = .fault)

/-- The host image ends with an END record (R204). -/
def hostImageEnds (records : List ConfigRecord) : Bool :=
  match records.getLast? with
  | some r => decide (r.tag = 0x00#8)
  | none => false

/-- The bytes of a host image. -/
def hostImageBytes (records : List ConfigRecord) : List Byte := records.flatMap ConfigRecord.bytes

/-- A CONFIG_RECORD after its length test (R181, R204). -/
def State.judgeConfigRecord (bytes : List Byte) (s : State) : Judged :=
  if s.awaitsRecords then
    let r : ConfigRecord := { tag := bytes.headD 0x00#8, payload := bytes.drop 2 }
    if hostImageEnds s.sl.hostImage then (s, .badParam)
    else if Config.hostImageLimit < (hostImageBytes s.sl.hostImage).length + r.bytes.length then (s, .busy)
    else (s.setSl { s.sl with hostImage := s.sl.hostImage ++ [r] }, .ok)
  else (s, .wrongState)

/-- The byte count of a CONFIG_RECORD, judged from its own bytes (R209). -/
def recordLengthIs (t : Tail) : Bool :=
  match t.bytes with
  | _ :: length :: payload => decide (payload.length = length.toNat) && !t.partialByte
  | _ => false

/-- CONFIG_RECORD (R204). -/
def execConfigRecord (dt : Nat) (tail : Tail) (s : State) : Host.Outcome State Fault Refusal :=
  transaction dt (fun s => if recordLengthIs tail then s.judgeConfigRecord tail.bytes else (s, .badLength)) s

/-- CONFIG_END after its length test (R205). -/
def State.judgeConfigEnd (crc : List Byte) (s : State) : Judged :=
  if s.awaitsRecords then
    if hostImageEnds s.sl.hostImage then
      match validate s.sl.hostImage (hostImageBytes s.sl.hostImage) (BitVec.ofNat 16 (bytesToNat crc)) with
      | .error r => (s.failLoad r, .invalid)
      | .ok c => (s.load c, .ok)
    else (s.failLoad .noEnd, .invalid)
  else (s, .wrongState)

/-- CONFIG_END (R205). -/
def execConfigEnd (dt : Nat) (tail : Tail) (s : State) : Host.Outcome State Fault Refusal :=
  transaction dt (fun s => exactLength tail 2 s (State.judgeConfigEnd tail.bytes)) s

end Sys2Proof.Machine
end

