-- ==== Sys2Proof/Machine/Resets.lean ====
section
/-! DEFINITION. The resets: POWER_ON, the RESET pin and SOFT_RESET, block by block as the chapters' reset tables give
(R41, R67, R85, R116, R137, R155, R180, R195, R206). -/

namespace Sys2Proof.Machine

/-- What a power-on or the RESET pin leaves of the transaction in progress: abandoned while CS_N stays low (R173, R195). -/
def Transaction.cut (t : Transaction) (now : Nat) : Transaction := if t.lowAt now then .abandoned t.rise else .idle

/-- A power-on or the RESET pin (R206), with RESET_N at a level: every block at its values, the banks as they stand but for
an abandoned operation (R137; assumption 3). -/
def State.hardReset (s : State) (resetLow : Bool) : State :=
  let t := s.abandonOperation
  { now := s.now, config := none, mu := Membership.reset .loading, lc := Link.reset, tu := Timing.reset,
    cu := Commit.reset, fs := FrameStore.reset t.fs.bankA t.fs.bankB, we := Window.reset,
    lp := { Port.reset with transaction := s.lp.transaction.cut s.now }, sl := StartUp.reset resetLow, handed := Handed.clear,
    free := t.free, pending := s.pending }

/-- POWER_ON (R206): the level of the RESET_N pin is the board's and stays (assumption 27). -/
def State.powerOnBody (s : State) : State := s.hardReset s.sl.resetLow

/-- POWER_ON. -/
def execPowerOn (dt : Nat) (s : State) : Host.Outcome State Fault Refusal := event dt State.powerOnBody s

/-- RESET_PIN_ASSERT (R173, R197): the pin falls; a pin already low does not (assumption 27). -/
def State.resetAssertBody (s : State) : State := if s.sl.resetLow then s else s.hardReset true

/-- RESET_PIN_ASSERT. -/
def execResetPinAssert (dt : Nat) (s : State) : Host.Outcome State Fault Refusal := event dt State.resetAssertBody s

/-- RESET_PIN_RELEASE (R197): the pin rises, and the bus recovery begins. -/
def State.resetReleaseBody (s : State) : State := if s.sl.resetLow then s.setSl (StartUp.reset false) else s

/-- RESET_PIN_RELEASE. -/
def execResetPinRelease (dt : Nat) (s : State) : Host.Outcome State Fault Refusal := event dt State.resetReleaseBody s

/-- The Timing Unit after a SOFT_RESET (R85): with a map held the generator keeps its place, and a correction set on the
blank in progress is kept; without one it is stopped. -/
def Timing.softReset (t : Timing) (mapHeld : Bool) : Timing :=
  { Timing.reset with generator := if mapHeld then t.generator else none }

/-- The Window Engine after a SOFT_RESET (R155). -/
def freshWindow (config : Option Configuration) : Window :=
  match config with
  | some c => Window.reset.home c.map.ownTile
  | none => Window.reset

/-- The state a SOFT_RESET leaves the station in (R67, R206): LISTEN with its entry effects when a map is held, else LOADING
afresh. -/
def State.afterSoftReset (s : State) : State :=
  match s.config with
  | some _ => s.enterListen
  | none => (s.setMu (Membership.reset .loading)).setSl (StartUp.reset s.sl.resetLow)

/-- SOFT_RESET (R180): the configuration is kept; the SOFT_RESET transaction itself has ended. -/
def State.softResetBody (s : State) : State :=
  let t := s.abandonOperation
  let u : State :=
    { t with lc := Link.reset, tu := t.tu.softReset t.mapHeld, cu := Commit.reset,
             fs := FrameStore.reset t.fs.bankA t.fs.bankB, we := freshWindow t.config,
             lp := { Port.reset with miso := t.lp.miso }, handed := Handed.clear }
  u.afterSoftReset

/-- SOFT_RESET after its length test. -/
def State.judgeSoftReset (s : State) : Judged := (s.softResetBody, .ok)

/-- SOFT_RESET (R180). -/
def execSoftReset (dt : Nat) (tail : Tail) (s : State) : Host.Outcome State Fault Refusal :=
  transaction dt (fun s => exactLength tail 0 s State.judgeSoftReset) s

end Sys2Proof.Machine
end

