-- ==== Sys2Proof/Machine/MembershipUnit.lean ====
section
/-! DEFINITION. The Membership Unit (03_station_states_and_membership.md): the host's LEAVE and JOIN, JOINING_PASSAGE, and
what an applied JOIN, LEAVE, DROP or READY does, with the Commit Unit's part of the same event (05, sections 5.4 to 5.6). -/

namespace Sys2Proof.Machine

/-! ## Host commands (R66) -/

/-- LEAVE after its length test (R56, R66). -/
def State.judgeLeave (s : State) : Judged :=
  if s.mu.state = .member then
    (if s.lc.slots.leave = none then s.setSlots { s.lc.slots with leave := some Retry.fresh } else s, .ok)
  else (s, .wrongState)

/-- LEAVE (R56). -/
def execLeave (dt : Nat) (tail : Tail) (s : State) : Host.Outcome State Fault Refusal :=
  transaction dt (fun s => exactLength tail 0 s State.judgeLeave) s

/-- JOIN after its length test (R66). -/
def State.judgeJoin (s : State) : Judged :=
  if s.mu.state = .evicted ∨ s.mu.state = .detached then (s.enterListen, .ok) else (s, .wrongState)

/-- JOIN (R66). -/
def execJoin (dt : Nat) (tail : Tail) (s : State) : Host.Outcome State Fault Refusal :=
  transaction dt (fun s => exactLength tail 0 s State.judgeJoin) s

/-- JOINING_PASSAGE (R49). -/
def execJoiningPassage (s : State) : Host.Outcome State Fault Refusal := followOn State.joiningPassageBody s

/-! ## What a station state does on the link (R23) -/

/-- LISTEN or JOINING. -/
def StationState.learning : StationState → Bool
  | .listen => true
  | .joining => true
  | .loading => false
  | .awaitConfig => false
  | .fault => false
  | .member => false
  | .evicted => false
  | .detached => false
  | .conflict => false

/-- Drives verdict slots and applies delivered frames: LISTEN, JOINING, MEMBER (R23). -/
def StationState.hears (x : StationState) : Bool := x.learning || decide (x = .member)

/-- Receives beacons for FOREIGN reporting only: EVICTED, DETACHED, CONFLICT (R29). -/
def StationState.observes (x : StationState) : Bool :=
  decide (x = .evicted) || decide (x = .detached) || decide (x = .conflict)

/-! ## The member table -/

/-- Replace the member table. -/
def State.setMembers (s : State) (m : StationSet) : State := s.setMu { s.mu with members := m }

/-- FOREIGN reporting (R65). -/
def State.reportForeign (s : State) (x : Station) : State :=
  if hasStation s.mu.foreign x then s
  else (s.setMu { s.mu with foreign := withStation s.mu.foreign x }).raise (EventRecord.foreign x)

/-- A MEMBER loses stations by a LEAVE or a DROP: the table, the removals handed on (R44), the record's R and Y (R95), and
the ranks (R82). -/
def State.lose (s : State) (m : StationSet) : State :=
  if m = 0#16 then s
  else (((s.setMembers (setMinus s.mu.members m)).handOnRemovals m).recordLoses m).rankRetest

/-! ## JOIN (R46, R47, R51, R52, R53) -/

/-- A rejoin in the collection record: the sender leaves R and Y, and the completion check is made (R95, R97). -/
def State.rejoin (s : State) (x : Station) (k : Completing) : State :=
  (s.recordLoses (oneStation x)).completionCheck k

/-- A JOIN of another station with an equal digest, in LISTEN or JOINING (R47). -/
def State.learnJoin (s : State) (x : Station) (k : Completing) : State :=
  let t := s.setMu { s.mu with members := withStation s.mu.members x, memberRecorded := true }
  if hasStation s.mu.members x then t.rejoin x k else t

/-- A JOIN of another station applied in MEMBER (R53). -/
def State.admitMember (s : State) (x : Station) (k : Completing) : State :=
  if hasStation s.mu.members x then (s.raise (EventRecord.joined x)).rejoin x k
  else
    let t := s.setMu { s.mu with members := withStation s.mu.members x,
                                 foreign := setMinus s.mu.foreign (oneStation x) }
    (t.raise (EventRecord.joined x)).rankRetest

/-- A delivered JOIN of another station (R14, R47, R53). A JOIN of another digest comes here in LISTEN, and also in JOINING when
the station took it in LISTEN and a vertical start between the verdict slots and the delivery moved it on; it is judged alike
(assumption 39). -/
def State.applyJoin (s : State) (x : Station) (b : JoinBody) : State :=
  if s.mu.state = .member then s.admitMember x b.completing
  else if s.digest = some b.digest then s.learnJoin x b.completing
  else if s.mu.memberRecorded then s
  else s.enterConflict false

/-- The founding of R51. -/
def State.foundWall (s : State) : State := s.found.raise (EventRecord.only .founded)

/-- The Joining outcome of R51, and the rejoin at self: a synced member enters IDLE, an unsynced one keeps NONE. -/
def State.becomeMember (s : State) (k : Completing) : State :=
  let listed := hasStation s.mu.members s.self
  let t := s.setMu { s.mu with state := .member, members := withStation s.mu.members s.self }
  let t := t.setCu { t.cu with phase := if t.mu.synced then .idle else .absent }
  let t := t.raise (EventRecord.joined s.self)
  if listed then t.rejoin s.self k else t.rankRetest

/-- The station's own JOIN is delivered (R51); its slot has been emptied. -/
def State.applyOwnJoin (s : State) (k : Completing) : State :=
  if s.mu.memberRecorded then s.becomeMember k else s.foundWall

/-- An unheard JOIN at its 24th attempt (R52). -/
def State.settleJoin (s : State) : State :=
  if s.mu.memberRecorded then s.enterListen else s.foundWall

/-! ## LEAVE (R48, R57) -/

/-- A delivered LEAVE of another station. -/
def State.applyLeave (s : State) (x : Station) (k : Completing) : State :=
  if !hasStation s.mu.members x then s
  else if s.mu.state = .member then
    (((s.lose (oneStation x)).raise (EventRecord.left x)).completionCheck k)
  else ((s.setMembers (setMinus s.mu.members (oneStation x))).recordLoses (oneStation x)).completionCheck k

/-! ## DROP (R48, R58) -/

/-- The DROPPED event, when at least one named station was a member (R58). -/
def State.reportDropped (s : State) (m : StationSet) (e : Epoch) : State :=
  if m = 0#16 then s else s.raise (EventRecord.dropped m e)

/-- A DROP, delivered or applied alone. -/
def State.applyDrop (s : State) (b : DropBody) : State :=
  let gone := b.stations &&& s.mu.members
  if s.mu.state = .member then
    if hasStation b.stations s.self then s.evict false
    else ((s.lose gone).reportDropped gone b.epoch).completionCheck b.completing
  else ((s.setMembers (setMinus s.mu.members gone)).recordLoses gone).completionCheck b.completing

/-! ## READY (R93, R94) -/

/-- The own READY(c) takes CLOSING to WAITING and sets the timer to 0 (R94). -/
def State.ownReadyApplied (s : State) (x : Station) : State :=
  if x = s.self ∧ s.cu.phase = .closing then s.setCu { s.cu with phase := .waiting, timer := 0 } else s

/-- A READY, delivered or applied alone. When the sender is already in Y the record stays as it is (R93); the own READY(c)
takes CLOSING to WAITING there too, and the completion check follows (R94; the two rules read together, assumption 35). -/
def State.applyReady (s : State) (x : Station) (b : ReadyBody) : State :=
  match s.cu.record with
  | none => s
  | some r =>
    if b.epoch = r.collecting ∧ hasStation r.required x then
      if hasStation r.ready x = false then
        ((((s.setRecord { r with ready := withStation r.ready x }).dropLoses (oneStation x)).ownReadyApplied x).completionCheck
          b.completing)
      else if x = s.self ∧ s.cu.phase = .closing then (s.ownReadyApplied x).completionCheck b.completing
      else s
    else s

end Sys2Proof.Machine
end

