-- ==== Sys2Proof/Machine/TimingUnit.lean ====
section
/-! DEFINITION. The Timing Unit's rows (04_wall_timing_and_the_beacon.md): VERTICAL_START, VERTICAL_BLANK_END, PRS_RELEASE,
LOCK_LOSS and BEACON_LOSS. -/

namespace Sys2Proof.Machine

/-- The nominal frame period P = (B + height_self) × line time (R68). -/
def Configuration.period (c : Configuration) : Nat := (c.blank + c.map.ownTile.height) * c.lineTime

/-- The end of a blank: the nominal end plus the correction set on it, not earlier than one line time after its vertical
start (R79). -/
def Generator.blankEnd (c : Configuration) (g : Generator) : Nat :=
  max (g.blankStart + c.lineTime)
    (Int.toNat ((g.blankStart + c.blank * c.lineTime : Nat) + g.correction.getD 0))

/-- The next vertical start is due: the active rows are over (R68). -/
def State.verticalStartDue (s : State) : Bool :=
  match s.config, s.tu.generator with
  | some c, some g => match g.activeSince with
    | some a => decide (a + c.map.ownTile.height * c.lineTime ≤ s.now)
    | none => false
  | _, _ => false

/-- The blank in progress is over (R79). -/
def State.blankEndDue (s : State) : Bool :=
  match s.config, s.tu.generator with
  | some c, some g => match g.activeSince with
    | some _ => false
    | none => decide (g.blankEnd c ≤ s.now)
  | _, _ => false

/-- The beacon rule (R71). -/
def State.beaconRule (s : State) : Bool :=
  decide (s.mu.state = .member) && s.mu.synced && match s.tu.source with
    | none => true
    | some x => !hasStation s.mu.members x || decide (s.self ≤ x)

/-- The Timing Unit's own part of a vertical start: the count, the frame that begins with a held correction set on its
blank, the silent count (R69, R76, R79, R80). -/
def State.countFrame (s : State) : State :=
  s.setTu { s.tu with
    generator := some { blankStart := s.now, correction := s.tu.held, activeSince := none, lastVertical := some s.now },
    held := none, count := s.tu.count + 1, startsSince := s.tu.startsSince + 1,
    silent := min Config.byteMax (s.tu.silent + 1) }

/-- The listen count increases in LISTEN and stops at 4 (R46). -/
def State.countListen (s : State) : State :=
  if s.mu.state = .listen then s.setMu { s.mu with listenCount := min Config.listenPeriod (s.mu.listenCount + 1) } else s

/-- The ready-wait timer increases in WAITING and stops at 60 (R101). -/
def State.countWait (s : State) : State :=
  if s.cu.phase = .waiting then s.setCu { s.cu with timer := min Config.readyWaitMax (s.cu.timer + 1) } else s

/-- The beacon slot is filled when the beacon rule holds (R71). -/
def State.fillBeacon (s : State) : State :=
  if s.beaconRule then s.setSlots { s.lc.slots with beacon := true } else s

/-- The flip test of a synced member (R105). -/
def State.flipTest (s : State) : Bool :=
  decide (s.mu.state = .member) && s.mu.synced && match s.pendingFlip with
    | some l => flipFrameReached s.tu.count l.flipFrame && s.flipDrained l.epoch
    | none => false

/-- The test of a station in LISTEN or JOINING (R108). -/
def State.flipPassedTest (s : State) : Bool :=
  (decide (s.mu.state = .listen) || decide (s.mu.state = .joining)) && match s.pendingFlip with
    | some l => flipFrameReached s.tu.count l.flipFrame
    | none => false

/-- The ready-wait limit (R101). -/
def State.readyLimit (s : State) : Nat := match s.config with
  | some c => c.readyLimit
  | none => 0

/-- What the vertical start finds due (R80, R81, R102, R105, R108). -/
def State.handOn (s : State) : State :=
  s.setHanded
    { flip := s.flipTest, flipPassed := s.flipPassedTest,
      lockLoss := decide (s.tu.silent = 3) && decide (s.tu.lock ≠ .free),
      beaconLoss := s.lostSource.isSome,
      readyWait := decide (s.cu.phase = .waiting) && decide (s.readyLimit ≤ s.cu.timer) }

/-- VERTICAL_START (R69). -/
def State.verticalStartBody (inVerdict : Bool) (s : State) : State :=
  if s.verticalStartDue then
    ((((s.latchSlots inVerdict).countFrame).countListen).countWait).fillBeacon.handOn
  else s

/-- VERTICAL_START. -/
def execVerticalStart (dt : Nat) (inVerdict : Bool) (s : State) : Host.Outcome State Fault Refusal :=
  event dt (State.verticalStartBody inVerdict) s

/-- VERTICAL_BLANK_END (R79): the first active row begins. -/
def State.blankEndBody (s : State) : State :=
  if s.blankEndDue then
    s.setTu { s.tu with generator := s.tu.generator.map (fun g => { g with activeSince := some s.now }) }
  else s

/-- VERTICAL_BLANK_END. -/
def execVerticalBlankEnd (dt : Nat) (s : State) : Host.Outcome State Fault Refusal := event dt State.blankEndBody s

/-- PRS_RELEASE (R185): one line time after the vertical start of the flip. -/
def State.prsReleaseBody (s : State) : State :=
  match s.lp.prs with
  | some t => if t ≤ s.now then s.setLp { s.lp with prs := none } else s
  | none => s

/-- PRS_RELEASE. -/
def execPrsRelease (dt : Nat) (s : State) : Host.Outcome State Fault Refusal := event dt State.prsReleaseBody s

/-- LOCK_LOSS (R80). -/
def execLockLoss (s : State) : Host.Outcome State Fault Refusal := followOn State.lockLossBody s

/-- BEACON_LOSS (R81). -/
def execBeaconLoss (s : State) : Host.Outcome State Fault Refusal := followOn State.beaconLossBody s

end Sys2Proof.Machine
end

