-- ==== Sys2Proof/Machine/Adoption.lean ====
section
/-! DEFINITION. What a delivered beacon does (R46, R54, R72 to R80, R110 to R113, R132): the adoption, part by part, and the
tests before it. -/

namespace Sys2Proof.Machine

/-! ## The Timing Unit's part -/

/-- The phase error and the frame offset from the raw difference and the nominal frame period (R76). -/
def phaseError (raw : Int) (period : Nat) : Int × Int :=
  if (period : Int) < 2 * raw then (raw - period, -1)
  else if 2 * raw ≤ -(period : Int) then (raw + period, 1)
  else (raw, 0)

/-- A number limited to −n..+n (R78). -/
def limited (e : Int) (n : Nat) : Int := max (-(n : Int)) (min n e)

/-- The new lock state and the correction (R78). -/
def lockAndCorrection (e : Int) (lineTime : Nat) : LockState × Int :=
  if e.natAbs ≤ 2 * lineTime then (.locked, e) else (.acquiring, limited e (8 * lineTime))

/-- The correction placed at an adoption (R79): in a blank on the blank in progress, which ends at once when its adjusted
end is past; in active rows held. -/
def State.placeCorrection (s : State) (e : Int) : State :=
  match s.config, s.tu.generator with
  | some c, some g => match g.activeSince with
    | some _ => s.setTu { s.tu with held := some e }
    | none =>
      let g' := { g with correction := some e }
      s.setTu { s.tu with
        generator := some (if g'.blankEnd c ≤ s.now then { g' with activeSince := some s.now } else g') }
  | _, _ => s

/-- The nominal frame period of the held configuration. -/
def State.period (s : State) : Nat := s.config.elim 0 Configuration.period

/-- The phase error and frame offset of an adopted beacon: from the recorded t and the launch delay (R76). -/
def State.measured (s : State) (b : BeaconBody) : Int × Int :=
  phaseError (((s.tu.startPhase.getD 0 : Nat) : Int) - b.launchDelay) s.period

/-- The frame count set at an adoption (R77). -/
def State.adoptedCount (s : State) (b : BeaconBody) : FrameCount :=
  b.count + BitVec.ofInt 32 (s.measured b).2 + BitVec.ofNat 32 s.tu.startsSince

/-- The beacon source becomes the sender (R74). -/
def State.adoptSource (s : State) (x : Station) : State :=
  if s.tu.source = some x then s
  else (s.setTu { s.tu with source := some x }).raise (EventRecord.reference x)

/-- A lower-numbered sender's beacon withdraws the pending one (R72). -/
def State.withdrawBeacon (s : State) (x : Station) : State :=
  if x < s.self then s.setSlots { s.lc.slots with beacon := false } else s

/-- Frame count, lock state and correction, source, silent count (R74 to R80). -/
def State.adoptTiming (s : State) (x : Station) (b : BeaconBody) : State :=
  let lc := lockAndCorrection (s.measured b).1 s.lineTime
  let t := s.setTu { s.tu with count := s.adoptedCount b, silent := 0 }
  ((((t.setLock lc.1).placeCorrection lc.2).adoptSource x).withdrawBeacon x)

/-! ## The Membership Unit's part -/

/-- The table is replaced; in LISTEN and JOINING the listen records change too, and nothing is handed on (R46, R54). -/
def State.adoptMembers (s : State) (b : BeaconBody) : State :=
  if s.mu.state = .member then
    let gone := setMinus s.mu.members b.members
    let t := s.setMu { s.mu with members := b.members, synced := true, foreign := setMinus s.mu.foreign b.members }
    t.handOnRemovals gone
  else s.setMu { s.mu with members := b.members, synced := true, beaconAdopted := true, memberRecorded := true }

/-! ## The Commit Unit's part -/

/-- A carried last commit with a flipped mark. -/
def carriedCommit (flipped : Bool) (l : Epoch × FrameCount) : LastCommit :=
  { epoch := l.1, flipFrame := l.2, flipped := flipped }

/-- The last commit after an adoption that keeps c (R111). -/
def sameEpochCommit (held : Option LastCommit) (carried : Option (Epoch × FrameCount)) : Option LastCommit :=
  match held, carried with
  | some h, some l => if h.epoch = l.1 then some { h with flipFrame := l.2 } else some (carriedCommit true l)
  | none, some l => some (carriedCommit true l)
  | h, none => h

/-- The record after an adoption (R110, R111). -/
def adoptedRecord (held : Option Record) (b : BeaconBody) : Record :=
  { collecting := b.collecting, required := b.required, ready := b.ready,
    last := match held with
      | some r => if r.collecting = b.collecting then sameEpochCommit r.last b.last else b.last.map (carriedCommit false)
      | none => b.last.map (carriedCommit false) }

/-- The phase of a synced member after an adoption (R112). -/
def adoptedPhase (r : Record) (self : Station) (kept : Bool) (was : Phase) : Phase :=
  if r.pendingFlip.isSome then (if hasStation r.required self then .held else .idle)
  else if hasStation r.ready self then .waiting
  else if hasStation r.required self then
    (if kept ∧ (was = .closing ∨ was = .waiting) then .closing else .building)
  else .idle

/-- The READY and DROP slots at an adoption (R31, R112). -/
def State.adoptSlots (s : State) (r : Record) (kept : Bool) : State :=
  let t := if kept then s.dropLoses r.ready else s.setSlots { s.lc.slots with drop := none }
  if !kept ∨ hasStation r.ready t.self then t.setSlots { t.lc.slots with ready := none } else t

/-- The Commit Unit's part (R110 to R112): in LISTEN and JOINING the phase stays NONE. -/
def State.adoptRecord (s : State) (b : BeaconBody) : State :=
  let kept := match s.cu.record with
    | some r => r.collecting == b.collecting
    | none => false
  let r := adoptedRecord s.cu.record b
  let phase := if s.mu.state = .member then adoptedPhase r s.self kept s.cu.phase else .absent
  let timer := if phase = .waiting ∧ s.cu.phase = .waiting ∧ kept then s.cu.timer else 0
  (s.setCu { record := some r, phase := phase, timer := timer }).adoptSlots r kept

/-! ## The Frame Store's part -/

/-- An inbound entry is kept when its epoch is the new b or b + 1 (R132). -/
def InEntry.keptAt (e : InEntry) (b : Epoch) : Bool := e.epoch == b || e.epoch == b + 1

/-- The operation in progress is the inbound requester's (R132). -/
def FrameStore.applying (f : FrameStore) : Bool := match f.operation with
  | some o => o.requester == .inbound
  | none => false

/-- The inbound entries left by an adoption that moves the back-bank epoch to b (R132): a removed head whose operation is
in progress leaves when that ends. -/
def FrameStore.keptEntries (f : FrameStore) (b : Epoch) : List InEntry :=
  match f.inbound with
  | [] => []
  | h :: rest =>
    (if h.leaving ∨ h.keptAt b then [h] else if f.applying then [{ h with leaving := true }] else []) ++
      rest.filter (fun e => e.keptAt b)

/-- Entries that the adoption removes, each counted as stale once (R132). -/
def FrameStore.removedCount (f : FrameStore) (b : Epoch) : Nat :=
  (f.inbound.filter (fun e => !e.leaving && !e.keptAt b)).length

/-- An adoption that changes b (R132). -/
def State.adoptInbound (s : State) (old : Option Epoch) : State :=
  match s.backEpoch with
  | none => s
  | some b =>
    if old = some b then s
    else (s.setFs { s.fs with inbound := s.fs.keptEntries b }).countStale (s.fs.removedCount b)

/-! ## SLIP (R113) -/

/-- What SLIP compares of a record: c, R, Y, and the epoch and flip frame of the last commit. -/
def Record.compared (r : Record) : Epoch × StationSet × StationSet × Option (Epoch × FrameCount) :=
  (r.collecting, r.required, r.ready, r.last.map (fun l => (l.epoch, l.flipFrame)))

/-- A synced member that held something else before the adoption raises SLIP. -/
def State.reportSlip (s before : State) : State :=
  if before.mu.state = .member ∧ before.mu.synced ∧
      (s.tu.count ≠ before.tu.count ∨ s.mu.members ≠ before.mu.members ∨
        s.cu.record.map Record.compared ≠ before.cu.record.map Record.compared) then
    s.raise (EventRecord.slip (s.cu.record.elim 0#16 Record.collecting) (s.mu.members ^^^ before.mu.members) (s.tu.count - before.tu.count))
  else s

/-- The adoption of a beacon (R75): the blocks' parts in one event. -/
def State.adopt (s : State) (x : Station) (b : BeaconBody) : State :=
  ((((s.adoptTiming x b).adoptMembers b).adoptRecord b).adoptInbound s.backEpoch).reportSlip s

/-- A delivered beacon at a station that drives verdict slots (R14, R46, R54). -/
def State.applyBeacon (s : State) (x : Station) (b : BeaconBody) : State :=
  if s.mu.state = .member then
    if !hasStation s.mu.members x then s.reportForeign x
    else if s.digest ≠ some b.digest then s.enterConflict false
    else if !hasStation b.members s.self then s.evict true
    else s.adopt x b
  else if s.digest ≠ some b.digest then s.enterConflict false
  else s.adopt x b

end Sys2Proof.Machine
end

