-- ==== Sys2Proof/Machine/WallLink.lean ====
section
/-! DEFINITION. The Link Controller's rows (02_the_wall_link.md, 08_span_traffic.md): the idle, the start field, the frame
cut short, the holdoff expiries, and the end of a frame of each kind with its verdict. -/

namespace Sys2Proof.Machine

/-- LINK_IDLE (R16): the receiver is in step from here on. -/
def State.linkIdleBody (s : State) : State :=
  s.setLc { s.lc with view := .idle, flight := none, slotView := none }

/-- LINK_IDLE. -/
def execLinkIdle (dt : Nat) (s : State) : Host.Outcome State Fault Refusal := event dt State.linkIdleBody s

/-! ## Offering (R24, R159, R160) -/

/-- The outbound pick: the oldest entry whose addressee is not in holdoff (R159). -/
def State.pick (s : State) : Option OutEntry :=
  s.lc.outbound.find? (fun e => !(s.lc.addressees[e.addressee.val]).inHoldoff s.now)

/-- A control slot holds an item that is not in holdoff (R24, R33). -/
def State.slotEligible (s : State) (c : ControlSlot) : Bool :=
  match s.lc.slots.retry c with
  | some r => !r.inHoldoff s.now
  | none => false

/-- The highest eligible item (R24). A beacon and a DROP carry fields of the collection record, so they are offered only
while one is held, as it always is where R71 and R81 fill their slots (assumption 8). -/
def State.eligibleItem (s : State) : Option Item :=
  if s.lc.slots.beacon ∧ s.cu.record.isSome then some .beacon
  else if s.slotEligible .drop ∧ s.cu.record.isSome then some .drop
  else if s.slotEligible .leave then some .leave
  else if s.slotEligible .join then some .join
  else if s.slotEligible .ready then some .ready
  else s.pick.map Item.outbound

/-- Stamp and commit lead of a control frame that starts now (R24, R99). -/
def State.completing (s : State) : Completing := { stamp := s.tu.count, lead := s.commitLead }

/-- The beacon of a start field (R73, R109); `delay` is the time from the most recent vertical start. -/
def State.beaconBody (s : State) (delay : Nat) : BeaconBody :=
  { count := s.tu.count, launchDelay := delay, digest := s.digest.getD 0#16, members := s.mu.members,
    collecting := s.cu.record.elim 0#16 Record.collecting, required := s.cu.record.elim 0#16 Record.required,
    ready := s.cu.record.elim 0#16 Record.ready,
    last := s.cu.record.bind (fun r => r.last.map (fun l => (l.epoch, l.flipFrame))) }

/-- Kind and body of an item's frame at a start field (R24, R160; 11_formats.md, 11.1). -/
def State.itemBody (s : State) (delay : Nat) : Item → FrameKind × List Byte
  | .beacon => (.beacon, (s.beaconBody delay).bytes)
  | .drop => (.drop, DropBody.bytes
      { completing := s.completing, epoch := s.cu.record.elim 0#16 Record.collecting,
        stations := s.lc.slots.drop.elim 0#16 DropSlot.stations })
  | .leave => (.leave, LeaveBody.bytes { completing := s.completing })
  | .join => (.join, JoinBody.bytes { completing := s.completing, digest := s.digest.getD 0#16 })
  | .ready => (.ready, ReadyBody.bytes
      { completing := s.completing, epoch := s.lc.slots.ready.elim 0#16 ReadySlot.epoch })
  | .outbound e =>
    (match e.paint with
      | .span _ _ _ => .span
      | .fill _ _ => .fill,
     PaintBody.bytes { addressee := e.addressee.val, epoch := e.epoch, paint := e.paint })

/-- The bits that this station sends, start field to final mark, while its own frame is in flight (R17); else it sends none. -/
def State.linkSent (s : State) : List Bool := s.lc.flight.elim [] (fun a => a.frame.sent)

/-- The attempt of an item at a start field. -/
def State.attemptOf (s : State) (delay : Nat) (item : Item) : Attempt :=
  { item := item, frame := makeFrame (s.itemBody delay item).1 s.self (s.itemBody delay item).2 }

/-- The time from the generator's most recent vertical start; before its first, a free value (assumption 7). -/
def State.sinceVertical (s : State) (g : Generator) : Nat :=
  match g.lastVertical with
  | some v => s.now - v
  | none => Config.phaseBeforeFirstStart s.free

/-- The start field as every station in step sees it: t is recorded, and own vertical starts are counted from here
(R76). -/
def State.seeStart (s : State) (flight : Option Attempt) : State :=
  let t := (s.setLc { s.lc with view := .inFrame, flight := flight, slotView := none }).setTu
    { s.tu with startPhase := s.tu.generator.map s.sinceVertical, startsSince := 0 }
  match s.tu.generator with
  | some g => if g.lastVertical.isSome then t else t.setFree (s.free + 1)
  | none => t

/-- FRAME_START (R19, R24): others alone begin a frame, or this station does with its highest eligible item. -/
def State.frameStartBody (who : StartField) (s : State) : State :=
  if s.lc.view = .idle then
    match who with
    | .others => s.seeStart none
    | .ours =>
      if s.mu.state = .joining ∨ s.mu.state = .member then
        match s.eligibleItem with
        | some item => s.seeStart (some (s.attemptOf (s.tu.generator.elim 0 s.sinceVertical) item))
        | none => s
      else s
  else s

/-- FRAME_START. -/
def execFrameStart (dt : Nat) (who : StartField) (s : State) : Host.Outcome State Fault Refusal :=
  event dt (State.frameStartBody who) s

/-- The Link Controller after a frame: waiting for the next idle, nothing in flight (R22, R28). -/
def Link.afterFrame (l : Link) : Link := { l with view := .gap, flight := none, slotView := none }

/-- FRAME_CUT_SHORT (R22): the frame is discarded and not counted in spoils seen (R40), also where its length had disagreed with
the complement before the cut (R25; assumption 38), and the receiver waits for the next idle. A station that had lost a bit of
its own frame after the contention field, to a sender whose frame was then cut short, is in CONFLICT(ID) (R21; the model
enters it at this row, assumption 14). -/
def State.frameCutShortBody (lostBit : Bool) (s : State) : State :=
  if s.lc.view = .inFrame then
    let t := s.setLc s.lc.afterFrame
    if lostBit && s.lc.flight.isSome then t.enterConflict true else t
  else s

/-- FRAME_CUT_SHORT. -/
def execFrameCutShort (cut : CutFrame) (s : State) : Host.Outcome State Fault Refusal :=
  event cut.dt (State.frameCutShortBody cut.lostBit) s

/-! ## Holdoff expiries (R33, R163) -/

/-- An expiry that has come is absent from then on. -/
def Retry.expired (r : Retry) (now : Nat) : Retry := if r.inHoldoff now then r else { r with expiry := none }

/-- HOLDOFF_EXPIRY (R33). -/
def State.holdoffExpiryBody (c : ControlSlot) (s : State) : State :=
  match s.lc.slots.retry c with
  | some r => s.setSlots (s.lc.slots.setRetry c (r.expired s.now))
  | none => s

/-- HOLDOFF_EXPIRY. -/
def execHoldoffExpiry (dt : Nat) (slot : ControlSlot) (s : State) : Host.Outcome State Fault Refusal :=
  event dt (State.holdoffExpiryBody slot) s

/-- Replace an addressee's record (R158). -/
def State.setAddressee (s : State) (x : Station) (r : Retry) : State :=
  s.setLc { s.lc with addressees := s.lc.addressees.set x.val r x.isLt }

/-- ADDRESSEE_HOLDOFF_EXPIRY (R163). -/
def State.addresseeExpiryBody (x : Station) (s : State) : State :=
  s.setAddressee x ((s.lc.addressees[x.val]).expired s.now)

/-- ADDRESSEE_HOLDOFF_EXPIRY. -/
def execAddresseeHoldoffExpiry (dt : Nat) (x : Station) (s : State) : Host.Outcome State Fault Refusal :=
  event dt (State.addresseeExpiryBody x) s

/-! ## The bodies as received (R26, R208) -/

/-- A body that has passed the length and format checks. -/
inductive Body where
  | beacon (b : BeaconBody) | join (b : JoinBody) | leave (b : LeaveBody) | ready (b : ReadyBody) | drop (b : DropBody)
  | paint (b : PaintBody)
  deriving DecidableEq, Repr

/-- The body of a kind, read; none for a length or format error. -/
def readBody (map : Option TileMap) (k : FrameKind) (sender : Station) (bs : List Byte) : Option Body :=
  match k with
  | .beacon => (readBeacon sender bs).map Body.beacon
  | .join => (readJoin bs).map Body.join
  | .leave => (readLeave bs).map Body.leave
  | .ready => (readReady bs).map Body.ready
  | .drop => (readDrop bs).map Body.drop
  | .fill => (readFill map sender bs).map Body.paint
  | .span => (readSpan map sender bs).map Body.paint

/-- The held tile map. -/
def State.heldMap (s : State) : Option TileMap := s.config.map Configuration.map

/-- CRC, length and format as a receiver other than the sender checks them (R26, R29): none for an error. -/
def State.checkedBody (s : State) (k : FrameKind) (f : WireFrame) : Option Body :=
  if f.crcComputed = f.crc ∧ f.kind = k.code ∧ f.cls = k.cls ∧ f.sender ≠ s.self then
    readBody s.heldMap k f.sender f.body
  else none

/-- The digest test of R26, made on the frame as received, whatever its CRC: a JOIN of another station at a station in JOINING
or MEMBER. A frame with the JOIN kind code in another class, with a body not of 7 bytes or with the receiver's own number is
not taken for a JOIN from another station with a digest to compare: its other error is all that is found (assumption 23). -/
def State.unequalJoin (s : State) (k : FrameKind) (f : WireFrame) (state : StationState) : Bool :=
  (decide (state = .joining) || decide (state = .member)) && decide (k = .join) && decide (f.kind = k.code) &&
    decide (f.cls = k.cls) && decide (f.sender ≠ s.self) && decide (f.body.length = 7) &&
    decide (s.digest ≠ some (BitVec.ofNat 16 (field f.body 5 2)))

/-! ## TAKE (R27, R168) -/

/-- The acceptance test of an addressee (R168, R171). -/
def SlotView.accepts (v : SlotView) (sender : Station) (e : Epoch) : Bool :=
  decide (v.state = .member) && hasStation v.members sender &&
    if v.synced then
      match v.backEpoch with
      | some b => if e = b ∨ e = b + 1 ∨ e = b + 2 then decide (v.inbound < Config.inboundCapacity) else true
      | none => true
    else true

/-- This station drives TAKE for a body it has received correctly (R27). -/
def SlotView.takes (v : SlotView) (self sender : Station) : Body → Bool
  | .beacon _ => true
  | .join _ => true
  | .leave _ => true
  | .ready _ => true
  | .drop _ => true
  | .paint b => decide (b.addressee = self.val) && v.accepts sender b.epoch

/-! ## Delivery at a receiver (R28) -/

/-- The inbound queue holds an entry of the epoch after b (R131). -/
def FrameStore.holdsNext (f : FrameStore) (b : Epoch) : Bool := f.inbound.any (fun e => e.epoch == b + 1)

/-- The placement of a taken entry at its delivery (R131, R169, R171). The test of room stands for what R168 has made sure
of at the TAKE slot (assumption 11). -/
def State.placeEntry (s : State) (sender : Station) (b : PaintBody) : State :=
  match s.backEpoch with
  | none => s.countStale 1
  | some e =>
    if ((b.epoch = e ∧ s.fs.holdsNext e = false) ∨ b.epoch = e + 1) ∧ s.fs.inbound.length < Config.inboundCapacity then
      s.setFs { s.fs with inbound := s.fs.inbound ++
        [{ sender := sender, epoch := b.epoch, paint := b.paint, rowsDone := 0, leaving := false }] }
    else s.countStale 1

/-- A delivered body of another station applied (R28); `took`: this station drove TAKE for it. -/
def State.deliver (s : State) (sender : Station) (took : Bool) : Body → State
  | .beacon b => s.applyBeacon sender b
  | .join b => s.applyJoin sender b
  | .leave b => s.applyLeave sender b.completing
  | .ready b => s.applyReady sender b
  | .drop b => s.applyDrop b
  | .paint b => if b.addressee = s.self.val ∧ took then s.placeEntry sender b else s

/-- A station in JOINING with no member recorded that spoiled a JOIN for its digest enters CONFLICT(MAP) (R50). -/
def State.joiningConflict (s : State) (unequal : Bool) : State :=
  if unequal ∧ s.mu.state = .joining ∧ s.mu.memberRecorded = false then s.enterConflict false else s

/-- A frame received by a station that drives verdict slots (R25 to R28, R40). -/
def State.hear (s : State) (k : FrameKind) (e : FrameEnd) (v : SlotView) : State :=
  if e.frame.lengthFound = false then s.countSpoil
  else
    let unequal := s.unequalJoin k e.frame v.state
    match (if unequal then none else s.checkedBody k e.frame) with
    | none => s.countSpoil.joiningConflict unequal
    | some body =>
      let took := v.takes s.self e.frame.sender body
      if e.otherSpoil then s.countSpoil
      else if took ∨ e.otherTake then s.deliver e.frame.sender took body
      else s

/-- A frame received in EVICTED, DETACHED or CONFLICT (R29): a correct and delivered beacon is reported. -/
def State.observe (s : State) (k : FrameKind) (e : FrameEnd) : State :=
  if e.frame.lengthFound ∧ e.otherTake ∧ e.otherSpoil = false then
    match s.checkedBody k e.frame with
    | some (.beacon _) => s.reportForeign e.frame.sender
    | some (.join _) => s
    | some (.leave _) => s
    | some (.ready _) => s
    | some (.drop _) => s
    | some (.paint _) => s
    | none => s
  else s

/-- A frame received: by what the station state gives it to do (R23). -/
def State.receive (s : State) (k : FrameKind) (e : FrameEnd) (v : SlotView) : State :=
  if s.mu.state.hears then s.hear k e v
  else if s.mu.state.observes then s.observe k e
  else s

/-! ## The own attempt's outcome (R32 to R39, R161 to R164) -/

/-- The verdict (R28). -/
inductive Verdict where
  | delivered | spoiled | unheard
  deriving DecidableEq, Repr

/-- The verdict of an own frame: the transmitter drives neither slot (R26, R28). -/
def verdictOf (e : FrameEnd) : Verdict :=
  if e.otherSpoil then .spoiled else if e.otherTake then .delivered else .unheard

/-- The sole-member test (R34). -/
def State.soleMember (s : State) : Bool := s.mu.members == oneStation s.self

/-- The attempt count of a slot increases and its holdoff starts (R32, R33). -/
def State.holdSlot (s : State) (c : ControlSlot) : State :=
  match s.lc.slots.retry c with
  | some r => s.setSlots (s.lc.slots.setRetry c (r.heldOff s.now))
  | none => s

/-- The attempt count of a slot. -/
def State.attempts (s : State) (c : ControlSlot) : Nat := (s.lc.slots.retry c).elim 0 Retry.attempts

/-- A control slot emptied (R30). -/
def State.emptySlot (s : State) (c : ControlSlot) : State :=
  match c with
  | .drop => s.setSlots { s.lc.slots with drop := none }
  | .leave => s.setSlots { s.lc.slots with leave := none }
  | .join => s.setSlots { s.lc.slots with join := none }
  | .ready => s.setSlots { s.lc.slots with ready := none }

/-- The beacon attempt's outcome (R39, R83). -/
def State.ownBeacon (s : State) (f : WireFrame) (v : Verdict) : State :=
  let t := s.setSlots { s.lc.slots with beacon := false }
  match v with
  | .delivered => match readBeacon s.self f.body with
    | some b => t.applyBeacon s.self b
    | none => t
  | .spoiled => t
  | .unheard => t

/-- The LEAVE attempt's outcome (R32, R36, R57). -/
def State.ownLeave (s : State) (v : Verdict) : State :=
  match v with
  | .delivered => s.detach
  | .spoiled => s.holdSlot .leave
  | .unheard =>
    let t := s.holdSlot .leave
    if t.soleMember ∨ Config.attemptLimit ≤ t.attempts .leave then t.detach else t

/-- The JOIN attempt's outcome (R32, R38, R51, R52). -/
def State.ownJoin (s : State) (f : WireFrame) (v : Verdict) : State :=
  match v with
  | .delivered => (s.emptySlot .join).applyOwnJoin (completingOf f.body)
  | .spoiled => s.holdSlot .join
  | .unheard =>
    let t := s.holdSlot .join
    if Config.attemptLimit ≤ t.attempts .join then (t.emptySlot .join).settleJoin else t

/-- A READY body of this station's own frame. -/
def ownReadyBody (f : WireFrame) : ReadyBody :=
  { completing := completingOf f.body, epoch := BitVec.ofNat 16 (field f.body 5 2) }

/-- The READY attempt's outcome (R32, R35, R93). -/
def State.ownReady (s : State) (f : WireFrame) (v : Verdict) : State :=
  match v with
  | .delivered => (s.emptySlot .ready).applyReady s.self (ownReadyBody f)
  | .spoiled => s.holdSlot .ready
  | .unheard => if s.soleMember then (s.emptySlot .ready).applyReady s.self (ownReadyBody f) else s.holdSlot .ready

/-- A DROP body of this station's own frame. -/
def ownDropBody (f : WireFrame) : DropBody :=
  { completing := completingOf f.body, epoch := BitVec.ofNat 16 (field f.body 5 2),
    stations := BitVec.ofNat 16 (field f.body 7 2) }

/-- ALONE, when a DROP applied alone leaves the sender the sole member (R37, R59). -/
def State.reportAlone (s : State) : State :=
  if s.mu.state = .member ∧ s.soleMember then s.raiseAfter (EventRecord.only .alone) else s

/-- The DROP attempt's outcome (R32, R37, R58, R59). -/
def State.ownDrop (s : State) (f : WireFrame) (v : Verdict) : State :=
  match v with
  | .delivered => (s.dropLoses (ownDropBody f).stations).applyDrop (ownDropBody f)
  | .spoiled => s.holdSlot .drop
  | .unheard =>
    let t := s.holdSlot .drop
    if Config.attemptLimit ≤ t.attempts .drop then ((t.emptySlot .drop).applyDrop (ownDropBody f)).reportAlone else t

/-- The head entry of an addressee leaves the queue; its record returns to count 0 with no holdoff (R158, R161). -/
def State.removeHead (s : State) (x : Station) : State :=
  (s.setLc { s.lc with outbound := s.lc.outbound.eraseP (fun e => e.addressee = x) }).freshAddressee x

/-- The entry is given up at the retry limit (R164). -/
def State.giveUp (s : State) (e : OutEntry) : State :=
  ((s.removeHead e.addressee).countSpansLost 1).raise (EventRecord.spanLost e.addressee e.epoch false)

/-- An outbound attempt's outcome (R161 to R164). -/
def State.ownEntry (s : State) (e : OutEntry) (v : Verdict) : State :=
  let r := s.lc.addressees[e.addressee.val]
  match v with
  | .delivered => s.removeHead e.addressee
  | .spoiled =>
    if Config.attemptLimit ≤ r.attempts + 1 then s.giveUp e
    else s.setAddressee e.addressee { r with attempts := r.attempts + 1 }
  | .unheard =>
    if Config.attemptLimit ≤ r.attempts + 1 then s.giveUp e
    else s.setAddressee e.addressee (r.heldOff s.now)

/-- The own frame ends (R28, R32, R39, R40). -/
def State.ownFrame (s : State) (a : Attempt) (e : FrameEnd) : State :=
  let t := if verdictOf e = .spoiled then s.countSpoil else s
  match a.item with
  | .beacon => t.ownBeacon a.frame (verdictOf e)
  | .drop => t.ownDrop a.frame (verdictOf e)
  | .leave => t.ownLeave (verdictOf e)
  | .join => t.ownJoin a.frame (verdictOf e)
  | .ready => t.ownReady a.frame (verdictOf e)
  | .outbound entry => t.ownEntry entry (verdictOf e)

/-! ## The station's part in the frame (R20, R21) -/

/-- How this station stands to a frame that has ended. -/
inductive Role where
  | receiver
  /-- it read back every bit as sent -/
  | transmitter (a : Attempt)
  /-- it lost a bit after the contention field -/
  | displaced
  /-- the wire cannot carry this frame against the station's driven bits -/
  | impossible
  deriving DecidableEq, Repr

/-- The first bit that differs: its place, and the bit sent (a driven bit is a 0). -/
def firstDifference : Nat → List Bool → List Bool → Option (Nat × Bool)
  | n, x :: xs, y :: ys => if x = y then firstDifference (n + 1) xs ys else some (n, x)
  | _, _, _ => none

/-- The station's part, by reading its own frame against the wire (R20, R21): a released bit read driven loses, in the six
bits of the contention field the contention only, after them the station's number. The start field, the marks and the final mark
are driven by every transmitter (R17), so no released bit of its own is among them, and the fields alone are compared. -/
def roleIn (flight : Option Attempt) (k : FrameKind) (f : WireFrame) : Role :=
  match flight with
  | none => .receiver
  | some a =>
    match firstDifference 0 a.frame.bits f.bits with
    | none => if f.kind = k.code ∧ a.frame = f then .transmitter a else .impossible
    | some (n, released) => if released then (if n < 6 then .receiver else .displaced) else .impossible

/-- The end of a frame, at the end of its SPOIL slot (R28). Only a station that is in step and saw its start field has a
part in it (R16). -/
def State.endFrame (k : FrameKind) (e : FrameEnd) (s : State) : State :=
  if s.lc.view = .inFrame then
    let v := s.lc.slotView.getD s.slotViewNow
    let t := s.setLc s.lc.afterFrame
    match roleIn s.lc.flight k e.frame with
    | .receiver => t.receive k e v
    | .transmitter a => t.ownFrame a e
    | .displaced => t.enterConflict true
    | .impossible => s
  else s

/-- BEACON (R75). -/
def execBeacon (dt : Nat) (frame : FrameEnd) (s : State) : Host.Outcome State Fault Refusal :=
  event dt (State.endFrame .beacon frame) s

/-- JOIN_FRAME (R53). -/
def execJoinFrame (dt : Nat) (frame : FrameEnd) (s : State) : Host.Outcome State Fault Refusal :=
  event dt (State.endFrame .join frame) s

/-- LEAVE_FRAME (R57). -/
def execLeaveFrame (dt : Nat) (frame : FrameEnd) (s : State) : Host.Outcome State Fault Refusal :=
  event dt (State.endFrame .leave frame) s

/-- READY_FRAME (R93). -/
def execReadyFrame (dt : Nat) (frame : FrameEnd) (s : State) : Host.Outcome State Fault Refusal :=
  event dt (State.endFrame .ready frame) s

/-- DROP_FRAME (R58). -/
def execDropFrame (dt : Nat) (frame : FrameEnd) (s : State) : Host.Outcome State Fault Refusal :=
  event dt (State.endFrame .drop frame) s

/-- SPAN_FRAME (R169). -/
def execSpanFrame (dt : Nat) (frame : FrameEnd) (s : State) : Host.Outcome State Fault Refusal :=
  event dt (State.endFrame .span frame) s

/-- FILL_FRAME (R169). -/
def execFillFrame (dt : Nat) (frame : FrameEnd) (s : State) : Host.Outcome State Fault Refusal :=
  event dt (State.endFrame .fill frame) s

end Sys2Proof.Machine
end

