-- ==== Sys2Proof/Machine/WindowEngine.lean ====
section
/-! DEFINITION. The Window Engine's rows (07_the_window_engine.md): SET_WINDOW, the stream, FILL, ROUTE_PIXEL and
WAITING_SPAN_ADMIT. -/

namespace Sys2Proof.Machine

/-- SET_WINDOW after its length test (R138). -/
def State.judgeSetWindow (params : List Byte) (s : State) : Judged :=
  match s.config with
  | none => (s, .wrongState)
  | some c =>
    let rect := rectOfBytes params
    if c.map.rectInCanvas rect then
      (s.setWe { s.we with window := some rect, cursor := some (rect.x0, rect.y0) }, .ok)
    else (s, .badParam)

/-- SET_WINDOW (R138). -/
def execSetWindow (dt : Nat) (tail : Tail) (s : State) : Host.Outcome State Fault Refusal :=
  transaction dt (fun s => exactLength tail 8 s (State.judgeSetWindow tail.bytes)) s

/-! ## Writing commands (R140, R141) -/

/-- The first three tests of R140; none where they pass. -/
def State.writingRefusal (s : State) : Option Result :=
  match s.cu.phase with
  | .absent => some .wrongState
  | .building => if s.we.job.isSome then some .busy else none
  | .idle => some .held
  | .closing => some .held
  | .waiting => some .held
  | .held => some .held

/-- The collecting epoch; 0 where no record is held, in which phases nothing reads it. -/
def State.collecting (s : State) : Epoch := s.cu.record.elim 0#16 Record.collecting

/-- A stream transaction begins (R141): refused, or taken with the stream epoch c. -/
def State.openStream (s : State) : State :=
  match s.writingRefusal with
  | some r => s.openPort (.stream { result := r, epoch := none, overrun := false, entered := false }) []
  | none => s.openPort (.stream { result := .ok, epoch := some s.collecting, overrun := false, entered := false }) []

/-- A taken STREAM_START sets the cursor to the window's corner (R141). -/
def State.streamStartBody (s : State) : State :=
  if s.portReady then
    let t := s.openStream
    match s.writingRefusal with
    | some _ => t
    | none => t.setWe { t.we with cursor := t.we.window.map (fun w => (w.x0, w.y0)), assembler := [] }
  else s

/-- STREAM_START. -/
def execStreamStart (dt : Nat) (s : State) : Host.Outcome State Fault Refusal := event dt State.streamStartBody s

/-- A taken STREAM_CONTINUE leaves the cursor where it stands (R141). -/
def State.streamContinueBody (s : State) : State :=
  if s.portReady then
    let t := s.openStream
    match s.writingRefusal with
    | some _ => t
    | none => t.setWe { t.we with assembler := [] }
  else s

/-- STREAM_CONTINUE. -/
def execStreamContinue (dt : Nat) (s : State) : Host.Outcome State Fault Refusal := event dt State.streamContinueBody s

/-! ## From bytes to buffered pixels (R139, R142 to R145) -/

/-- The cursor's next place in the window (R139). -/
def moveCursor (w : Rect) (c : Nat × Nat) : Nat × Nat :=
  if c.1 = w.x1 then (if c.2 = w.y1 then (w.x0, w.y0) else (w.x0, c.2 + 1)) else (c.1 + 1, c.2)

/-- A pixel completed by the assembler enters the buffer at the cursor, or is an overrun pixel (R143, R144). -/
def State.offerPixel (t : StreamTransaction) (epoch : Epoch) (colour : Pixel) (s : State) : State :=
  if s.we.buffer.length < Config.bufferCapacity then
    match s.we.window, s.we.cursor with
    | some w, some c =>
      let u := s.setBuffer (s.we.buffer ++ [{ colour := colour, x := c.1, y := c.2, epoch := epoch, endMark := false }])
      let u := u.setWe { u.we with cursor := some (moveCursor w c) }
      u.setLp { u.lp with transaction := .stream { t with entered := true } }
    | _, _ => s
  else
    let u := s.countOverrun s.format.bytes
    if t.overrun then u
    else (u.setLp { u.lp with transaction := .stream { t with overrun := true } }).raise (EventRecord.only .streamOverrun)

/-- STREAM_PIXEL_BYTE (R142). The bytes of a refused or ended transaction are ignored (R141). -/
def State.streamPixelByteBody (value : Byte) (s : State) : State :=
  match s.lp.transaction with
  | .stream t => match t.epoch with
    | none => s
    | some epoch =>
      let bytes := s.we.assembler ++ [value]
      if bytes.length < s.format.bytes then s.setWe { s.we with assembler := bytes }
      else (s.setWe { s.we with assembler := [] }).offerPixel t epoch (hostPixel s.format bytes)
  | .idle => s
  | .abandoned _ => s
  | .readEvent _ => s
  | .readCounters _ => s
  | .readFront _ _ _ => s
  | .response _ => s

/-- STREAM_PIXEL_BYTE. -/
def execStreamPixelByte (dt : Nat) (value : Byte) (s : State) : Host.Outcome State Fault Refusal :=
  event dt (State.streamPixelByteBody value) s

/-- The last pixel of the buffer receives the end mark (R143). -/
def markLast : List BufferedPixel → List BufferedPixel
  | [] => []
  | [p] => [{ p with endMark := true }]
  | p :: q :: rest => p :: markLast (q :: rest)

/-- The end mark is placed on the transaction's last pixel while it is still in the buffer; else the open run closes
(R143, R149). Pixels enter at the tail, so that pixel is then the buffer's last. -/
def State.endStream (t : StreamTransaction) (s : State) : State :=
  if t.entered && !s.we.buffer.isEmpty then s.setWe { s.we with buffer := markLast s.we.buffer } else s.closeOpenRun

/-- STREAM_RELEASE (R142, R143, R175): the result is set; an incomplete pixel's bytes are discarded and counted. The rise of
CS_N on a transaction that a reset has abandoned does nothing else (R173). -/
def State.streamReleaseBody (s : State) : State :=
  match s.lp.transaction with
  | .stream t =>
    let u := s.setLp { s.lp with transaction := .idle, lastResult := t.result }
    match t.epoch with
    | none => u
    | some _ =>
      let u := u.countOverrun u.we.assembler.length
      (u.setWe { u.we with assembler := [] }).endStream t
  | .abandoned _ => s.setLp { s.lp with transaction := .idle }
  | .idle => s
  | .readEvent _ => s
  | .readCounters _ => s
  | .readFront _ _ _ => s
  | .response _ => s

/-- STREAM_RELEASE. -/
def execStreamRelease (dt : Nat) (s : State) : Host.Outcome State Fault Refusal := event dt State.streamReleaseBody s

/-! ## FILL (R140, R152) -/

/-- The FILL entries of a canvas rectangle: one for each member other than self whose tile it touches, in ascending order
of addressee (R152). -/
def State.fillEntries (m : TileMap) (members : StationSet) (epoch : Epoch) (rect : Rect) (colour : Pixel) :
    List OutEntry :=
  m.tiles.filterMap (fun t =>
    if t.station ≠ m.self ∧ hasStation members t.station then
      (t.clip rect).map (fun r => { addressee := t.station, epoch := epoch, paint := .fill r colour })
    else none)

/-- The local fill job of a canvas rectangle: the clip for self, if not empty (R152, R153). -/
def State.fillJob (m : TileMap) (epoch : Epoch) (rect : Rect) (colour : Pixel) : Option FillJob :=
  ((m.tileFor m.self).bind (fun t => t.clip rect)).map
    (fun r => { epoch := epoch, colour := colour, rect := r, nextRow := r.y0 })

/-- FILL after its length test: the tests of R140 in order, then R152. -/
def State.judgeFill (params : List Byte) (s : State) : Judged :=
  match s.writingRefusal with
  | some r => (s, r)
  | none => match s.config with
    | none => (s, .wrongState)
    | some c =>
      let rect := rectOfBytes params
      let colour := hostPixel c.format (params.drop 8)
      let entries := State.fillEntries c.map s.mu.members s.collecting rect colour
      if !c.map.rectInCanvas rect then (s, .badParam)
      else if !s.streamPathEmpty then (s, .busy)
      else if Config.outboundCapacity < s.lc.outbound.length + entries.length then (s, .busy)
      else
        let t := s.setLc { s.lc with outbound := s.lc.outbound ++ entries }
        (t.setWe { t.we with job := State.fillJob c.map s.collecting rect colour }, .ok)

/-- FILL (R152); its byte count depends on the host format (R209). -/
def execFill (dt : Nat) (tail : Tail) (s : State) : Host.Outcome State Fault Refusal :=
  transaction dt (fun s => exactLength tail (8 + s.format.bytes) s (State.judgeFill tail.bytes)) s

/-! ## Routing (R146 to R149) -/

/-- A pixel of a tile continues a run (R147). -/
def Run.continuedBy (r : Run) (t : Tile) (p : BufferedPixel) : Bool :=
  decide (r.addressee = t.station ∧ r.epoch = p.epoch ∧ r.row + t.y = p.y ∧ r.start + r.pixels.length + t.x = p.x)

/-- A new run of one pixel (R147, R8). -/
def runOf (t : Tile) (p : BufferedPixel) : Run :=
  { addressee := t.station, epoch := p.epoch, row := p.y - t.y, start := p.x - t.x, pixels := [p.colour] }

/-- The tile whose station receives the pixel: self, or another member (R146). -/
def State.routeOwner (s : State) (p : BufferedPixel) : Option Tile :=
  match s.config with
  | none => none
  | some c => match c.map.owner p.x p.y with
    | none => none
    | some t => if t.station = c.map.self ∨ hasStation s.mu.members t.station then some t else none

/-- The pixel is placed in the open run, or opens one after that run has closed (R147). -/
def State.placePixel (t : Tile) (p : BufferedPixel) (s : State) : State :=
  match s.we.openRun with
  | none => s.setWe { s.we with openRun := some (runOf t p) }
  | some r =>
    if r.continuedBy t p then s.setWe { s.we with openRun := some { r with pixels := r.pixels ++ [p.colour] } }
    else
      let u := s.closeOpenRun
      u.setWe { u.we with openRun := some (runOf t p) }

/-- The open run closes at 64 pixels, and when the marked pixel has been placed in it (R147, R149). -/
def State.closeIfFull (marked : Bool) (s : State) : State :=
  match s.we.openRun with
  | none => s
  | some r => if Config.runLimit ≤ r.pixels.length ∨ marked then s.closeOpenRun else s

/-- ROUTE_PIXEL (R146): while a closed run waits the router takes no pixel; a discarded pixel stays at the head when the
closing it caused has left a closed run waiting. -/
def State.routePixelBody (s : State) : State :=
  match s.we.buffer with
  | [] => s
  | p :: rest =>
    if s.we.runWaits then s
    else match s.routeOwner p with
      | some t => ((s.setBuffer rest).placePixel t p).closeIfFull p.endMark
      | none =>
        let u := s.closeOpenRun
        if u.we.runWaits then u else (u.setBuffer rest).countUnowned

/-- ROUTE_PIXEL. -/
def execRoutePixel (dt : Nat) (s : State) : Host.Outcome State Fault Refusal := event dt State.routePixelBody s

/-- WAITING_SPAN_ADMIT (R148, R157). -/
def execWaitingSpanAdmit (s : State) : Host.Outcome State Fault Refusal := followOn State.waitingSpanBody s

end Sys2Proof.Machine
end

