-- ==== Sys2Proof/Machine/Dispatch.lean ====
section
/-! DEFINITION. The dispatch: each command to its meaning. -/

namespace Sys2Proof.Machine

/-- The effect of a command on everything but the queue. -/
def exec (i : Instr) (s : State) : Host.Outcome State Fault Refusal :=
  match i with
  | .powerOn dt => Sys2Proof.Machine.execPowerOn dt s
  | .resetPinAssert dt => Sys2Proof.Machine.execResetPinAssert dt s
  | .resetPinRelease dt => Sys2Proof.Machine.execResetPinRelease dt s
  | .eepromAttempt dt missing => Sys2Proof.Machine.execEepromAttempt dt missing s
  | .eepromRetryWaitExpiry dt => Sys2Proof.Machine.execEepromRetryWaitExpiry dt s
  | .eepromByte dt value => Sys2Proof.Machine.execEepromByte dt value s
  | .nop dt tail => Sys2Proof.Machine.execNop dt tail s
  | .setWindow dt tail => Sys2Proof.Machine.execSetWindow dt tail s
  | .streamStart dt => Sys2Proof.Machine.execStreamStart dt s
  | .streamContinue dt => Sys2Proof.Machine.execStreamContinue dt s
  | .streamPixelByte dt value => Sys2Proof.Machine.execStreamPixelByte dt value s
  | .streamRelease dt => Sys2Proof.Machine.execStreamRelease dt s
  | .fill dt tail => Sys2Proof.Machine.execFill dt tail s
  | .present dt tail => Sys2Proof.Machine.execPresent dt tail s
  | .readStatus time => Sys2Proof.Machine.execReadStatus time s
  | .readEvent dt => Sys2Proof.Machine.execReadEvent dt s
  | .readEventRelease dt clocked => Sys2Proof.Machine.execReadEventRelease dt clocked s
  | .readCounters dt => Sys2Proof.Machine.execReadCounters dt s
  | .readCountersRelease dt clocked => Sys2Proof.Machine.execReadCountersRelease dt clocked s
  | .readFront time params => Sys2Proof.Machine.execReadFront time params s
  | .readFrontRow dt => Sys2Proof.Machine.execReadFrontRow dt s
  | .leave dt tail => Sys2Proof.Machine.execLeave dt tail s
  | .join dt tail => Sys2Proof.Machine.execJoin dt tail s
  | .softReset dt tail => Sys2Proof.Machine.execSoftReset dt tail s
  | .configRecord dt tail => Sys2Proof.Machine.execConfigRecord dt tail s
  | .configEnd dt tail => Sys2Proof.Machine.execConfigEnd dt tail s
  | .unknown dt code tail => Sys2Proof.Machine.execUnknown dt code tail s
  | .emptyTransaction dt clocks => Sys2Proof.Machine.execEmptyTransaction dt clocks s
  | .linkIdle dt => Sys2Proof.Machine.execLinkIdle dt s
  | .frameStart dt who => Sys2Proof.Machine.execFrameStart dt who s
  | .frameCutShort cut => Sys2Proof.Machine.execFrameCutShort cut s
  | .beacon dt frame => Sys2Proof.Machine.execBeacon dt frame s
  | .joinFrame dt frame => Sys2Proof.Machine.execJoinFrame dt frame s
  | .leaveFrame dt frame => Sys2Proof.Machine.execLeaveFrame dt frame s
  | .readyFrame dt frame => Sys2Proof.Machine.execReadyFrame dt frame s
  | .dropFrame dt frame => Sys2Proof.Machine.execDropFrame dt frame s
  | .spanFrame dt frame => Sys2Proof.Machine.execSpanFrame dt frame s
  | .fillFrame dt frame => Sys2Proof.Machine.execFillFrame dt frame s
  | .holdoffExpiry dt slot => Sys2Proof.Machine.execHoldoffExpiry dt slot s
  | .addresseeHoldoffExpiry dt addressee => Sys2Proof.Machine.execAddresseeHoldoffExpiry dt addressee s
  | .verticalStart dt inVerdict => Sys2Proof.Machine.execVerticalStart dt inVerdict s
  | .lockLoss => Sys2Proof.Machine.execLockLoss s
  | .beaconLoss => Sys2Proof.Machine.execBeaconLoss s
  | .readyWaitExpiry => Sys2Proof.Machine.execReadyWaitExpiry s
  | .joiningPassage => Sys2Proof.Machine.execJoiningPassage s
  | .flip => Sys2Proof.Machine.execFlip s
  | .flipPassed => Sys2Proof.Machine.execFlipPassed s
  | .prsRelease dt => Sys2Proof.Machine.execPrsRelease dt s
  | .bankClearRow dt => Sys2Proof.Machine.execBankClearRow dt s
  | .bankClearEnd => Sys2Proof.Machine.execBankClearEnd s
  | .bankWriterGrant => Sys2Proof.Machine.execBankWriterGrant s
  | .bankWriterOpEnd dt inVerdict => Sys2Proof.Machine.execBankWriterOpEnd dt inVerdict s
  | .routePixel dt => Sys2Proof.Machine.execRoutePixel dt s
  | .waitingSpanAdmit => Sys2Proof.Machine.execWaitingSpanAdmit s
  | .readyQueued => Sys2Proof.Machine.execReadyQueued s
  | .verticalBlankEnd dt => Sys2Proof.Machine.execVerticalBlankEnd dt s

end Sys2Proof.Machine
end

