-- ==== Sys2Proof/Safety.lean ====
section
/-! DEFINITION. What holds of every state between two commands: the invariants that the manual states of its memories,
queues, row sets and records. -/

namespace Sys2Proof.Machine

/-- Both banks have the canonical form of memory (R117). -/
def FrameStore.Canonical (f : FrameStore) : Prop := Memory.wf f.bankA ∧ Memory.wf f.bankB

/-- No queue, buffer or saturating count exceeds its bound: Outbound Queue 48 (R156), inbound queue 16 (R131), event queue
32 (R187), pixel input buffer 32 (R143), assembler 2 (R142), listen count 4 (R46), ready-wait timer 60 (R101), silent
count 255 (R80). -/
abbrev State.WithinCapacity (s : State) : Prop :=
  s.lc.outbound.length ≤ 48 ∧ s.fs.inbound.length ≤ 16 ∧ s.lp.events.length ≤ 32 ∧ s.we.buffer.length ≤ 32 ∧
    s.we.assembler.length ≤ 2 ∧ s.mu.listenCount ≤ 4 ∧ s.cu.timer ≤ 60 ∧ s.tu.silent ≤ 255

/-- The dirty row set and the carry list are ascending and hold no row twice (R127, R128). -/
abbrev FrameStore.RowsAscending (f : FrameStore) : Prop := f.dirty.Pairwise (· < ·) ∧ f.carry.Pairwise (· < ·)

/-- LOADING, AWAIT_CONFIG, FAULT: the states without a map (R15). -/
def StationState.mapless : StationState → Bool
  | .loading => true
  | .awaitConfig => true
  | .fault => true
  | .listen => false
  | .joining => false
  | .member => false
  | .evicted => false
  | .detached => false
  | .conflict => false

/-- The ready set is a subset of the required set, and that of the member table (05, 5.1). -/
abbrev Record.Nested (r : Record) (members : StationSet) : Prop :=
  subsetOf r.ready r.required = true ∧ subsetOf r.required members = true

/-- Station state, member table, collection record and configuration agree: a map is held in the states R15 names; no read
of the EEPROM while one is held (R207); a collection record and the synced flag go together, in LISTEN, JOINING and MEMBER
(R42, R87); a phase other than NONE is a synced member's (R87); a MEMBER lists itself (R43); Y ⊆ R ⊆ member set; an own
frame is a JOINING or MEMBER station's (R23); a flip found due is a synced member's (R105). -/
structure State.Standing (s : State) : Prop where
  map : s.config.isSome = !s.mu.state.mapless
  loader : s.config.isSome → s.sl.loader = .off
  low : s.sl.resetLow = true → s.sl.loader = .held
  record : s.cu.record.isSome = s.mu.synced
  synced : s.mu.synced = true → s.mu.state.hears = true
  phase : s.cu.phase = .absent ↔ ¬(s.mu.state = .member ∧ s.mu.synced = true)
  self : s.mu.state = .member → hasStation s.mu.members s.self = true
  nested : ∀ r, s.cu.record = some r → r.Nested s.mu.members
  flight : s.lc.flight.isSome → s.mu.state = .joining ∨ s.mu.state = .member
  flip : s.handed.flip = true → s.mu.state = .member ∧ s.mu.synced = true

/-! ## Where a command starts from -/

/-- No record waits to enter the event queue and no second founding is due: what the end of every event leaves. -/
abbrev State.Unraised (s : State) : Prop := s.lp.raised = [] ∧ s.lp.raisedAfter = [] ∧ s.refoundDue = false

/-- Between two events, a frame on the wire that this station saw begin and did not send, its slots not yet decided. -/
abbrev State.Receiving (s : State) : Prop :=
  Quiet s ∧ s.lc.view = .inFrame ∧ s.lc.flight = none ∧ s.lc.slotView = none

/-- Between two events, this station's own attempt on the wire. -/
abbrev State.Sending (s : State) (a : Attempt) : Prop :=
  Quiet s ∧ s.lc.view = .inFrame ∧ s.lc.flight = some a

/-! ## What several frames leave alike -/

/-- `t` is `v` once its event has ended: the counters are `k`, and the records `first`, in an order no rule gives, then `last`,
have entered the event queue, all of them where it has room (R187). -/
def State.Reported (v t : State) (k : Counters) (first last : List EventRecord) : Prop :=
  t = { v with lp := { v.lp with events := t.lp.events,
                                 counters := { k with eventsLost := t.lp.counters.eventsLost } }, free := t.free } ∧
    (v.lp.events.length + first.length + last.length ≤ 32 →
      t.lp.counters.eventsLost = k.eventsLost ∧
        ∃ order, order.Perm first ∧ t.lp.events = v.lp.events ++ order ++ last)

/-- The records of a removal: SPAN_LOST(GONE) for each station that had something in the Outbound Queue or the builder, with
the epoch of the oldest (R150, R165). -/
def State.goneRecords (u : State) (gone : StationSet) : List EventRecord :=
  ((List.finRange 16).filter (fun x => hasStation gone x)).filterMap
    (fun x => (u.heldFor x).head?.map (fun e => EventRecord.spanLost x e true))

/-- The counters after a removal: spans lost up by what was discarded (R165, R190). -/
def State.goneCounters (u : State) (gone : StationSet) : Counters :=
  { u.lp.counters with
    spansLost := saturate u.lp.counters.spansLost
      (((List.finRange 16).filter (fun x => hasStation gone x)).map (fun x => (u.heldFor x).length)).sum }

/-- The Link Controller's queue and addressee table without the stations `gone` (R165). -/
def Link.without (l : Link) (gone : StationSet) : Link :=
  { l with
    outbound := l.outbound.filter (fun e => !hasStation gone e.addressee),
    addressees := Vector.ofFn (fun x : Fin 16 => if hasStation gone x then { attempts := 0, expiry := none }
      else l.addressees[x.val]) }

/-- The span builder without runs for the stations `gone` (R150). -/
def Window.without (w : Window) (gone : StationSet) : Window :=
  { w with
    waitingSpans := w.waitingSpans.filter (fun r => !hasStation gone r.addressee),
    openRun := w.openRun.filter (fun r => !hasStation gone r.addressee) }

/-- A MEMBER without the stations `gone`, after a LEAVE or a DROP: table, Outbound Queue, addressee records and builder (R44,
R150, R165), R and Y (R95), the DROP set (R31), and the beacon-loss test made again (R82). -/
def State.bereft (u : State) (gone : StationSet) : State :=
  (({ u with
    mu := { u.mu with members := setMinus u.mu.members gone },
    lc := u.lc.without gone, we := u.we.without gone,
    cu := { u.cu with
      record := u.cu.record.map (fun r =>
        { r with required := setMinus r.required gone, ready := setMinus r.ready gone }) } } : State).dropLoses
    gone).rankRetest

/-- Whether the record held collects the epoch that a beacon carries. -/
def State.sameEpoch (u : State) (b : BeaconBody) : Bool := u.cu.record.any (fun r => r.collecting == b.collecting)

/-- The inbound queue after an adoption that leaves the back-bank epoch e, and the number counted as stale (R132). -/
def State.inboundAt (u : State) (e : Epoch) : List InEntry × Nat :=
  if u.backEpoch = some e then (u.fs.inbound, 0)
  else (match u.fs.inbound with
      | [] => []
      | h :: rest =>
        (if h.leaving ∨ h.epoch = e ∨ h.epoch = e + 1 then [h]
          else if u.fs.operation.any (fun o => o.requester == .inbound) then [{ h with leaving := true }] else []) ++
          rest.filter (fun q => q.epoch == e || q.epoch == e + 1),
    (u.fs.inbound.filter (fun q => !q.leaving && q.epoch != e && q.epoch != e + 1)).length)

/-- The frame count that a beacon sets, the recorded t being `p` (R76, R77). -/
def State.countFrom (u : State) (b : BeaconBody) (c : Configuration) (p : Nat) : FrameCount :=
  b.count + BitVec.ofInt 32 (phaseError ((p : Int) - b.launchDelay) ((c.blank + c.map.ownTile.height) * c.lineTime)).2 +
    BitVec.ofNat 32 u.tu.startsSince

/-- The lock state and the correction that a beacon gives (R76, R78). -/
def lockFrom (b : BeaconBody) (c : Configuration) (p : Nat) : LockState × Int :=
  lockAndCorrection (phaseError ((p : Int) - b.launchDelay) ((c.blank + c.map.ownTile.height) * c.lineTime)).1 c.lineTime

/-- A MEMBER after the adoption of x's beacon, before its records enter the queue: count, lock state, correction, source and
silent count (R74 to R80), table and FOREIGN set (R54, R65), what was held for removed stations (R150, R165), record, phase,
ready-wait timer and slots (R31, R72, R111, R112), and the inbound queue (R132). -/
def State.afterAdoption (u : State) (x : Station) (b : BeaconBody) (c : Configuration) (g : Generator) (p : Nat) : State :=
  let gone := setMinus u.mu.members b.members
  let r := adoptedRecord u.cu.record b
  let phase := adoptedPhase r c.map.self (u.sameEpoch b) u.cu.phase
  let corrected : Generator := { g with correction := some (lockFrom b c p).2 }
  { u with
    mu := { u.mu with members := b.members, synced := true, foreign := setMinus u.mu.foreign b.members },
    tu := { u.tu with
      count := u.countFrom b c p, lock := (lockFrom b c p).1, source := some x, silent := 0,
      held := if g.activeSince.isSome then some (lockFrom b c p).2 else u.tu.held,
      generator := if g.activeSince.isSome then some g
        else some { corrected with activeSince := if corrected.blankEnd c ≤ u.now then some u.now else none } },
    lc := { u.lc.without gone with
      slots := { u.lc.slots with
        beacon := u.lc.slots.beacon && !decide (x < c.map.self),
        ready := if u.sameEpoch b = true ∧ hasStation r.ready c.map.self = false then u.lc.slots.ready else none,
        drop := if u.sameEpoch b then
            (u.lc.slots.drop.map (fun d => { d with stations := setMinus (setMinus d.stations gone) r.ready })).filter
              (fun d => d.stations ≠ 0#16)
          else none } },
    we := u.we.without gone,
    cu := { record := some r, phase := phase,
            timer := if phase = .waiting ∧ u.cu.phase = .waiting ∧ u.sameEpoch b = true then u.cu.timer else 0 },
    fs := { u.fs with inbound := (u.inboundAt r.backEpoch).1 } }

/-- The counters of that adoption: spans lost and stale entries (R132, R165, R190). -/
def State.adoptionCounters (u : State) (b : BeaconBody) : Counters :=
  { u.goneCounters (setMinus u.mu.members b.members) with
    staleEntries := saturate u.lp.counters.staleEntries (u.inboundAt (adoptedRecord u.cu.record b).backEpoch).2 }

/-- The records of that adoption: LOCK and REFERENCE where the lock state and the source change (R74, R78), SPAN_LOST(GONE) of
the removed stations, and SLIP of a synced member for a changed count, table, c, R, Y or last commit (R113). -/
def State.adoptionRecords (u : State) (x : Station) (b : BeaconBody) (c : Configuration) (p : Nat) : List EventRecord :=
  let r := adoptedRecord u.cu.record b
  let shown := fun q : Record => (q.collecting, q.required, q.ready, q.last.map (fun l => (l.epoch, l.flipFrame)))
  (if u.tu.lock = (lockFrom b c p).1 then [] else [EventRecord.lock (lockFrom b c p).1]) ++
    (if u.tu.source = some x then [] else [EventRecord.reference x]) ++
    u.goneRecords (setMinus u.mu.members b.members) ++
    (if u.mu.synced = true ∧ (u.countFrom b c p ≠ u.tu.count ∨ b.members ≠ u.mu.members ∨
        some (shown r) ≠ u.cu.record.map shown) then
      [EventRecord.slip b.collecting (b.members ^^^ u.mu.members) (u.countFrom b c p - u.tu.count)]
    else [])

end Sys2Proof.Machine
end

