-- ==== Sys2Proof/Certificates/Slice0/Obligations.lean ====
section
/-! DEFINITION. The statements for the provers. Where a command is an event of its own, a statement starts from a state
between two events (`Quiet`: nothing due, nothing raised), so its conclusion is that command's own effect; EmptyQueueSettles
says that this is what stands between two events. `{ s with … }` in a conclusion names every field that may
change: all the rest of the state is unchanged. -/

open Sys2Proof Sys2Proof.Machine


/-! ## The queue of commands and the end of an event -/

/-- A step takes the command at the front of the queue and answers what that command does on the queue's rest. -/
def Obligations.StepRunsFrontCommand : Prop :=
  ∀ (c : Instr) (rest : List Instr) (s : State),
    step { s with pending := c :: rest } = exec c { s with pending := rest }

/-- On an empty queue the rows that follow inside the latest event are made, after which none of them is due; where none is
due, nothing changes (assumption 1: the model's choice of what a step on an empty queue does). -/
def Obligations.EmptyQueueSettles : Prop :=
  ∀ s : State, Quiet (settle s) ∧ (s.pending = [] → step s = .next (settle s) ∧ (Quiet s → step s = .next s))

/-- Every command answers a next state: no fault, no refusal. It leaves the queue alone, no record waiting to enter the event
queue, and no second founding due (R55, R187). -/
def Obligations.EveryCommandAnswersNext : Prop :=
  ∀ (c : Instr) (s : State), ∃ t, exec c s = .next t ∧ t.pending = s.pending ∧ t.Unraised

/-! ## Reset -/

/-- Power-on leaves what the reset tables give (R41, R67, R85, R116, R137, R155, R195, R206); RESET_N high is the model's
choice for the first state (assumption 9). -/
def Obligations.ResetLeavesThePowerOnValues : Prop :=
  State.reset.config = none ∧ State.reset.mu = Membership.reset .loading ∧
  State.reset.mu.state = .loading ∧ State.reset.mu.cause = .absent ∧ State.reset.mu.foreign = 0#16 ∧
  State.reset.mu.beaconAdopted = false ∧ State.reset.mu.memberRecorded = false ∧ State.reset.mu.listenCount = 0 ∧
  State.reset.mu.members = 0#16 ∧ State.reset.mu.synced = false ∧ State.reset.mu.founder = false ∧
  State.reset.lc.view = .outOfStep ∧ State.reset.lc.slots = Slots.empty ∧ State.reset.lc.outbound = [] ∧
  (∀ x : Station, State.reset.lc.addressees[x.val] = { attempts := 0, expiry := none }) ∧
  State.reset.tu.generator = none ∧ State.reset.tu.count = 0#32 ∧ State.reset.tu.lock = .free ∧
  State.reset.tu.source = none ∧ State.reset.tu.silent = 0 ∧ State.reset.tu.held = none ∧
  State.reset.tu.startPhase = none ∧ State.reset.lc.flight = none ∧
  State.reset.cu.record = none ∧ State.reset.cu.phase = .absent ∧ State.reset.cu.timer = 0 ∧
  State.reset.fs.front = .a ∧ State.reset.fs.showState = .background ∧ State.reset.fs.dirty = [] ∧
  State.reset.fs.carry = [] ∧ State.reset.fs.inbound = [] ∧ State.reset.fs.operation = none ∧
  State.reset.fs.lastServed = .carry ∧ State.reset.fs.clear = none ∧
  State.reset.we.window = none ∧ State.reset.we.cursor = none ∧ State.reset.we.buffer = [] ∧
  State.reset.we.hold = false ∧ State.reset.we.job = none ∧ State.reset.we.assembler = [] ∧
  State.reset.we.openRun = none ∧ State.reset.we.waitingSpans = [] ∧ State.reset.we.waitingLocals = [] ∧
  State.reset.we.localRun = none ∧ State.reset.lp.transaction = .idle ∧ State.reset.misoDriven = false ∧
  State.reset.sl.image = [] ∧ State.reset.sl.hostImage = [] ∧
  State.reset.lp.lastResult = .ok ∧ State.reset.lp.events = [] ∧ State.reset.lp.counters = Counters.zero ∧
  State.reset.intLine = false ∧ State.reset.prsLine = false ∧ State.reset.sl.loader = .recovery ∧
  State.reset.pending = []

/-- POWER_ON and the fall of RESET_N (R206, R197): every block takes its reset values, the configuration is discarded, the
station enters LOADING, a transaction in progress, CS_N being low, is abandoned (R173). The row of an operation in progress may be left partly
written (R136). The rise of RESET_N begins LOADING anew with the bus recovery. The model's choices in it: the banks
otherwise keep their contents, of which R137 says only "not set" (assumption 3); POWER_ON keeps the level of RESET_N, a low pin
does not fall again and a high one does not rise (assumption 27). -/
def Obligations.PowerOnAndResetPinClearEveryBlock : Prop :=
  (∀ (dt : Nat) (s : State) (c : Instr) (low : Bool), Quiet s →
    ((c = .powerOn dt ∧ low = s.sl.resetLow) ∨ (c = .resetPinAssert dt ∧ s.sl.resetLow = false ∧ low = true)) →
    ∃ t, exec c s = .next t ∧
      t = { State.reset with
            now := s.now + dt, fs := FrameStore.reset t.fs.bankA t.fs.bankB,
            lp := { Port.reset with
              transaction := if ({ s with now := s.now + dt } : State).csLow then .abandoned s.lp.transaction.rise
                else .idle },
            sl := { resetLow := low, loader := if low then .held else .recovery, image := [], hostImage := [] },
            free := t.free, pending := s.pending } ∧
      (s.fs.operation = none → t.fs.bankA = s.fs.bankA ∧ t.fs.bankB = s.fs.bankB ∧ t.free = s.free) ∧
      ∀ o, s.fs.operation = some o → ∀ (bank : Bank) (a : Nat),
        (bank = o.bank → a < pixelAddress o.row 0 ∨ pixelAddress o.row 0 + 512 * 3 ≤ a) →
        readByte (t.fs.bank bank) a = readByte (s.fs.bank bank) a) ∧
  ∀ (dt : Nat) (s : State), Quiet s →
    (s.sl.resetLow = true →
      exec (.resetPinAssert dt) s = .next { s with now := s.now + dt } ∧
      exec (.resetPinRelease dt) s =
        .next { s with now := s.now + dt,
                       sl := { resetLow := false, loader := .recovery, image := [], hostImage := [] } }) ∧
    (s.sl.resetLow = false → exec (.resetPinRelease dt) s = .next { s with now := s.now + dt })

/-- SOFT_RESET (R180, R206 and the SOFT_RESET columns of R41, R67, R85, R116, R137, R155, R195): with a map held the
configuration, the generator and the banks stay, the station enters LISTEN and a bank clear begins; without one LOADING begins
afresh. The row of an operation in progress may be left partly written (R136). The transaction must hold the command byte
alone. -/
def Obligations.SoftResetKeepsTheConfiguration : Prop :=
  ∀ (dt : Nat) (s : State), Quiet s → s.portReady = true → ∃ (bankA bankB : Memory) (n : Nat),
    (s.fs.operation = none → bankA = s.fs.bankA ∧ bankB = s.fs.bankB ∧ n = s.free) ∧
    (∀ o, s.fs.operation = some o → ∀ (bank : Bank) (a : Nat),
      (bank = o.bank → a < pixelAddress o.row 0 ∨ pixelAddress o.row 0 + 512 * 3 ≤ a) →
      readByte ((FrameStore.reset bankA bankB).bank bank) a = readByte (s.fs.bank bank) a) ∧
    (∀ c, s.config = some c →
      exec (.softReset dt ⟨[], false⟩) s =
        .next { s with
          now := s.now + dt, mu := Membership.reset .listen, lc := Link.reset,
          tu := { Timing.reset with generator := s.tu.generator }, cu := Commit.reset,
          fs := { FrameStore.reset bankA bankB with clear := some { begun := s.now + dt, row := 0 } },
          we := { Window.reset with
                  window := some { x0 := c.map.ownTile.x, y0 := c.map.ownTile.y,
                                   x1 := c.map.ownTile.x + c.map.ownTile.width - 1,
                                   y1 := c.map.ownTile.y + c.map.ownTile.height - 1 },
                  cursor := some (c.map.ownTile.x, c.map.ownTile.y) },
          lp := { Port.reset with miso := [s.lp.lastResult.code] }, free := n }) ∧
    (s.config = none →
      exec (.softReset dt ⟨[], false⟩) s =
        .next { s with
          now := s.now + dt, mu := Membership.reset .loading, lc := Link.reset,
          tu := Timing.reset, cu := Commit.reset, fs := FrameStore.reset bankA bankB, we := Window.reset,
          lp := { Port.reset with miso := [s.lp.lastResult.code] }, sl := StartUp.reset false, free := n }) ∧
    (∀ tail : Tail, tail ≠ ⟨[], false⟩ →
      exec (.softReset dt tail) s =
        .next { s with now := s.now + dt, lp := { s.lp with miso := [s.lp.lastResult.code], transaction := .idle,
                                                            lastResult := .badLength } })

/-! ## The Local Port -/

/-- R179: with the command byte alone the result is OK, with anything more BAD_LENGTH; the first MISO byte is the result of
the command before, and a second NOP returns OK. Nothing else changes. -/
def Obligations.NopReturnsThePreviousResult : Prop :=
  ∀ (dt : Nat) (tail : Tail) (s : State), Quiet s → s.portReady = true →
    exec (.nop dt tail) s =
      .next { s with now := s.now + dt,
                     lp := { s.lp with miso := [s.lp.lastResult.code], transaction := .idle,
                                       lastResult := if tail = ⟨[], false⟩ then .ok else .badLength } } ∧
    ∀ (dt' : Nat) (t : State), exec (.nop dt ⟨[], false⟩) s = .next t →
      exec (.nop dt' ⟨[], false⟩) t =
        .next { t with now := t.now + dt',
                       lp := { t.lp with miso := [0x00#8], transaction := .idle, lastResult := .ok } }

/-- A code that names no command gives UNKNOWN whatever follows it (R176); a transaction with no complete byte leaves the
last result (R173). Nothing else changes. While RESET_N is low the port takes no transaction (R173): every row that begins
one only lets time pass. CS_N is low in the transactions that have a row for its rise, and in the others until the time that
their row gives (assumption 4). MISO is driven exactly while CS_N is low on a transaction that the port takes part in, with
RESET_N high (R173, R195); of a transaction that a reset has abandoned the rows inside it do nothing, and its release only
raises CS_N. -/
def Obligations.UnknownEmptyAndResetTransactionsDoNothing : Prop :=
  (∀ s : State,
    (s.misoDriven = true ↔ s.csLow = true ∧ s.sl.resetLow = false ∧ ∀ rise, s.lp.transaction ≠ .abandoned rise) ∧
    (s.csLow = true ↔
      (∃ t, s.lp.transaction = .stream t) ∨ (∃ e, s.lp.transaction = .readEvent e) ∨
        (∃ k, s.lp.transaction = .readCounters k) ∨ s.lp.transaction = .abandoned none ∨
        ∃ rise, s.now < rise ∧
          (s.lp.transaction = .response rise ∨ s.lp.transaction = .abandoned (some rise) ∨
            ∃ rect row, s.lp.transaction = .readFront rect row rise))) ∧
  (∀ (dt clocked : Nat) (value : Byte) (s : State) (c : Instr) (rise : Option Nat), Quiet s →
      s.lp.transaction = .abandoned rise →
    ((c = .streamPixelByte dt value ∨ c = .readFrontRow dt) → exec c s = .next { s with now := s.now + dt }) ∧
    ((c = .streamRelease dt ∨ c = .readEventRelease dt clocked ∨ c = .readCountersRelease dt clocked) →
      exec c s = .next { s with now := s.now + dt, lp := { s.lp with transaction := .idle } })) ∧
  (∀ (dt : Nat) (code : Byte) (tail : Tail) (clocks : Nat) (s : State), Quiet s → s.portReady = true →
    exec (.unknown dt code tail) s =
      .next { s with now := s.now + dt,
                     lp := { s.lp with miso := [s.lp.lastResult.code], transaction := .idle, lastResult := .unknown } } ∧
    exec (.emptyTransaction dt clocks) s =
      .next { s with now := s.now + dt,
                     lp := { s.lp with miso := [s.lp.lastResult.code], transaction := .idle } }) ∧
  ∀ (dt : Nat) (s : State) (c : Instr), Quiet s → s.sl.resetLow = true →
    ((∃ tail, c = .nop dt tail ∨ c = .setWindow dt tail ∨ c = .fill dt tail ∨ c = .present dt tail ∨ c = .leave dt tail ∨
        c = .join dt tail ∨ c = .softReset dt tail ∨ c = .configRecord dt tail ∨ c = .configEnd dt tail ∨
        ∃ code, c = .unknown dt code tail) ∨
      c = .streamStart dt ∨ c = .streamContinue dt ∨ (∃ low, c = .readStatus ⟨dt, low⟩) ∨ c = .readEvent dt ∨
      c = .readCounters dt ∨ (∃ low params, c = .readFront ⟨dt, low⟩ params) ∨ ∃ clocks, c = .emptyTransaction dt clocks) →
    exec c s = .next { s with now := s.now + dt }

/-- READ_STATUS (R192): the copy of the status record follows the last result, the result is OK, and no other state
changes; CS_N stays low for the time its row gives (assumption 4). The record is 31 bytes long in every state; what each of them shows (11_formats.md, section 11.4; R193, R194): a
value that is absent reads 0, an absent station FFh. -/
def Obligations.ReadStatusReturnsTheStatusRecord : Prop :=
  (∀ (dt low : Nat) (s : State), Quiet s → s.portReady = true →
    exec (.readStatus ⟨dt, low⟩) s =
      .next { s with now := s.now + dt,
                     lp := { s.lp with miso := s.lp.lastResult.code :: ({ s with now := s.now + dt } : State).statusBytes,
                                       transaction := .response (s.now + dt + low), lastResult := .ok } }) ∧
  ∀ s : State,
    s.statusBytes.length = 31 ∧
    s.statusBytes[0]? = some (match s.config with
      | some c => BitVec.ofNat 8 c.map.self.val
      | none => 0xFF#8) ∧
    s.statusBytes[1]? = some (BitVec.ofNat 8 s.mu.state.code) ∧
    s.statusBytes[2]? = some (BitVec.ofNat 8 s.mu.causeCode) ∧
    s.statusBytes[3]? = some (BitVec.ofNat 8 ((if s.mu.synced then 1 else 0) + (if s.cu.record.isSome then 2 else 0) +
      (if s.pendingFlip.isSome then 4 else 0))) ∧
    s.statusBytes[4]? = some (BitVec.ofNat 8 s.cu.phase.code) ∧
    (s.cu.record = none → (s.statusBytes.drop 5).take 6 = List.replicate 6 0x00#8) ∧
    (∀ r, s.cu.record = some r →
      bytesToNat ((s.statusBytes.drop 5).take 2) = r.collecting.toNat ∧
      bytesToNat ((s.statusBytes.drop 7).take 2) = r.required.toNat ∧
      bytesToNat ((s.statusBytes.drop 9).take 2) = r.ready.toNat) ∧
    (s.pendingFlip = none → (s.statusBytes.drop 11).take 6 = List.replicate 6 0x00#8) ∧
    (∀ l, s.pendingFlip = some l →
      bytesToNat ((s.statusBytes.drop 11).take 2) = l.epoch.toNat ∧
      bytesToNat ((s.statusBytes.drop 13).take 4) = l.flipFrame.toNat) ∧
    bytesToNat ((s.statusBytes.drop 17).take 2) = s.mu.members.toNat ∧
    s.statusBytes[19]? = some (match s.tu.source with
      | some x => BitVec.ofNat 8 x.val
      | none => 0xFF#8) ∧
    s.statusBytes[20]? = some (BitVec.ofNat 8 s.tu.lock.code) ∧
    bytesToNat ((s.statusBytes.drop 21).take 4) = s.tu.count.toNat ∧
    s.statusBytes[25]? = some (BitVec.ofNat 8 s.lc.outbound.length) ∧
    s.statusBytes[26]? = some (BitVec.ofNat 8 s.fs.inbound.length) ∧
    bytesToNat ((s.statusBytes.drop 27).take 2) = s.fs.carry.length % 65536 ∧
    s.statusBytes[29]? = some (BitVec.ofNat 8 s.fs.showState.code) ∧
    s.statusBytes[30]? = some (BitVec.ofNat 8 s.lp.events.length)

/-- READ_EVENT and its release (R188): the oldest record, or kind NONE, is copied to MISO after the last result; a record
clocked whole (11 bytes) leaves the head of the queue with result OK; a short read leaves it with BAD_LENGTH; a copy of NONE
removes nothing. Nothing else changes. The 11 bytes of a record (11_formats.md, section 11.4): kind, presence bits, epoch,
station, station set, value, an absent field reading 0; the kinds are numbered 0 to 17, the named values as there. -/
def Obligations.ReadEventRemovesOnlyAWholeRecord : Prop :=
  (∀ e : EventRecord,
    e.bytes.length = 11 ∧ e.bytes[0]? = some (BitVec.ofNat 8 e.kind.code) ∧
    e.bytes[1]? = some (BitVec.ofNat 8 ((if e.epoch.isSome then 1 else 0) + (if e.station.isSome then 2 else 0) +
      (if e.stations.isSome then 4 else 0) + (if e.value.isSome then 8 else 0))) ∧
    bytesToNat ((e.bytes.drop 2).take 2) = e.epoch.elim 0 BitVec.toNat ∧
    e.bytes[4]? = some (BitVec.ofNat 8 (e.station.elim 0 Fin.val)) ∧
    bytesToNat ((e.bytes.drop 5).take 2) = e.stations.elim 0 BitVec.toNat ∧
    bytesToNat ((e.bytes.drop 7).take 4) = e.value.elim 0 BitVec.toNat) ∧
  [EventKind.absent, .flipped, .lateFlip, .founded, .joined, .left, .dropped, .evicted, .detached, .alone, .spanLost,
    .streamOverrun, .conflict, .reference, .lock, .slip, .foreign, .configFault].map EventKind.code = List.range 18 ∧
  [EventRecord.evicted false, .evicted true, .conflict false, .conflict true, .lock .free, .lock .acquiring, .lock .locked
    ].map EventRecord.value = [some 0#32, some 1#32, some 0#32, some 1#32, some 0#32, some 1#32, some 2#32] ∧
  (∀ (x : Station) (e : Epoch), (EventRecord.spanLost x e false).value = some 0#32 ∧
    (EventRecord.spanLost x e true).value = some 1#32) ∧
  [FaultReason.noEnd, .crcMismatch, .badValue, .duplicateRecord, .missingStation, .missingCanvas, .missingPanel,
    .missingOwnTile, .tileOutsideCanvas, .tileOverlap].map (fun r => (EventRecord.configFault r).value) =
    (List.range 10).map (fun n => some (BitVec.ofNat 32 (n + 1))) ∧
  ∀ (dt clocked : Nat) (s : State), Quiet s →
    (s.portReady = true →
      exec (.readEvent dt) s =
        .next { s with now := s.now + dt,
                       lp := { s.lp with transaction := .readEvent s.lp.events.head?,
                                         miso := s.lp.lastResult.code ::
                                           (s.lp.events.head?.getD (EventRecord.only .absent)).bytes } }) ∧
    (∀ copied, s.lp.transaction = .readEvent copied →
      exec (.readEventRelease dt clocked) s =
        .next { s with now := s.now + dt,
                       lp := { s.lp with transaction := .idle,
                                         lastResult := if 11 ≤ clocked then .ok else .badLength,
                                         events := if 11 ≤ clocked ∧ copied ≠ none then s.lp.events.drop 1
                                           else s.lp.events } })

/-- READ_COUNTERS and its release (R191): all seven are copied at one moment; when all 14 bytes were clocked, each counter
decreases by the value copied for it with result OK; a short read changes no counter and gives BAD_LENGTH. The 14 bytes are
the seven counters, two bytes each, in the order of 11_formats.md, section 11.4. -/
def Obligations.ReadCountersSubtractsTheCopy : Prop :=
  (∀ k : Counters, k.bytes.length = 14 ∧
    (List.range 7).map (fun i => bytesToNat ((k.bytes.drop (2 * i)).take 2)) =
      [k.unownedPixels.toNat, k.overrunBytes.toNat, k.spansLost.toNat, k.staleEntries.toNat, k.spoilsSeen.toNat,
        k.lateFlips.toNat, k.eventsLost.toNat]) ∧
  ∀ (dt clocked : Nat) (s : State), Quiet s →
    (s.portReady = true →
      exec (.readCounters dt) s =
        .next { s with now := s.now + dt,
                       lp := { s.lp with transaction := .readCounters s.lp.counters,
                                         miso := s.lp.lastResult.code :: s.lp.counters.bytes } }) ∧
    (∀ k, s.lp.transaction = .readCounters k → ∃ m : Counters,
      exec (.readCountersRelease dt clocked) s =
        .next { s with now := s.now + dt,
                       lp := { s.lp with transaction := .idle,
                                         lastResult := if 14 ≤ clocked then .ok else .badLength,
                                         counters := if 14 ≤ clocked then m else s.lp.counters } } ∧
      m.unownedPixels.toNat = s.lp.counters.unownedPixels.toNat - k.unownedPixels.toNat ∧
      m.overrunBytes.toNat = s.lp.counters.overrunBytes.toNat - k.overrunBytes.toNat ∧
      m.spansLost.toNat = s.lp.counters.spansLost.toNat - k.spansLost.toNat ∧
      m.staleEntries.toNat = s.lp.counters.staleEntries.toNat - k.staleEntries.toNat ∧
      m.spoilsSeen.toNat = s.lp.counters.spoilsSeen.toNat - k.spoilsSeen.toNat ∧
      m.lateFlips.toNat = s.lp.counters.lateFlips.toNat - k.lateFlips.toNat ∧
      m.eventsLost.toNat = s.lp.counters.eventsLost.toNat - k.eventsLost.toNat)

/-- READ_FRONT as it is judged (R182, R177): short of eight parameter bytes BAD_LENGTH, without a map WRONG_STATE, outside the
own tile BAD_PARAM, else taken with result OK; MISO reads 0 while the parameters arrive (R174). READ_FRONT_ROW (R135): the row
is read whole from the bank the front pointer then names, columns ascending, three bytes a pixel; while the bank clear runs, a
row it has not reached reads as the background colour (R122); after the last row, and once CS_N has risen, nothing more is
read. The time at which CS_N rises is the row's, and the next transaction ends one whose time has not come (assumption 4). -/
def Obligations.ReadFrontIsJudgedThenReadRowByRow : Prop :=
  (∀ (dt low : Nat) (params : List Byte) (s : State), Quiet s → s.portReady = true →
    exec (.readFront ⟨dt, low⟩ params) s =
      .next { s with
        now := s.now + dt,
        lp := { s.lp with
          miso := s.lp.lastResult.code :: List.replicate (min params.length 8) 0x00#8,
          transaction :=
            if params.length < 8 then .idle
            else match s.config with
              | some c =>
                if c.map.ownTile.holdsRect (rectOfBytes params) then
                  .readFront (rectOfBytes params) (rectOfBytes params).y0 (s.now + dt + low)
                else .response (s.now + dt + low)
              | none => .response (s.now + dt + low),
          lastResult :=
            if params.length < 8 then .badLength
            else match s.config with
              | some c => if c.map.ownTile.holdsRect (rectOfBytes params) then .ok else .badParam
              | none => .wrongState } }) ∧
  ∀ (dt : Nat) (s : State) (rect : Rect) (row rise : Nat), Quiet s → s.lp.transaction = .readFront rect row rise →
    (row ≤ rect.y1 → s.now + dt < rise →
      exec (.readFrontRow dt) s =
        .next { s with
          now := s.now + dt,
          lp := { s.lp with
            miso := s.lp.miso ++ (List.range (rect.x1 + 1 - rect.x0)).flatMap (fun i =>
              pixelBytes (match s.fs.clear with
                | some k => if k.row ≤ row then s.background else readPixel (s.fs.bank s.fs.front) row (rect.x0 + i)
                | none => readPixel (s.fs.bank s.fs.front) row (rect.x0 + i))),
            transaction := .readFront rect (row + 1) rise } }) ∧
    ((rect.y1 < row ∨ rise ≤ s.now + dt) → exec (.readFrontRow dt) s = .next { s with now := s.now + dt })

/-- A record enters the event queue at the tail while it holds fewer than 32; at 32 it is discarded and events lost increases
by 1, saturating (R187, R190). -/
def Obligations.EventQueueAdmitsUpTo32 : Prop :=
  ∀ (p : Port) (e : EventRecord),
    (p.events.length < 32 → p.enqueue e = { p with events := p.events ++ [e] }) ∧
    (32 ≤ p.events.length →
      p.enqueue e =
        { p with
          counters := { p.counters with
            eventsLost := BitVec.ofNat 16 (min 65535 (p.counters.eventsLost.toNat + 1)) } })

/-- INT is asserted exactly while the event queue is not empty (R184). -/
def Obligations.IntFollowsTheEventQueue : Prop := ∀ s : State, s.intLine = true ↔ s.lp.events ≠ []

/-! ## Start-up and configuration -/

/-- EEPROM_ATTEMPT and EEPROM_RETRY_WAIT_EXPIRY (R198): every acknowledge present, the sequential read begins; one missing,
the attempt fails and the next begins 5 ms later; after the third, AWAIT_CONFIG and no further read. An expiry before its
time only lets time pass. -/
def Obligations.EepromAttemptReadsWaitsOrGivesUp : Prop :=
  (∀ (dt n : Nat) (s : State), Quiet s → (s.sl.loader = .attempt n ∨ (n = 1 ∧ s.sl.loader = .recovery)) →
    exec (.eepromAttempt dt none) s = .next { s with now := s.now + dt, sl := { s.sl with loader := .reading } } ∧
    ∀ bit : AckBit,
      (n < 3 → exec (.eepromAttempt dt (some bit)) s =
        .next { s with now := s.now + dt, sl := { s.sl with loader := .waiting n (s.now + dt + 50000) } }) ∧
      (3 ≤ n → exec (.eepromAttempt dt (some bit)) s =
        .next { s with now := s.now + dt, mu := Membership.reset .awaitConfig, sl := { s.sl with loader := .off } })) ∧
  ∀ (dt n expiry : Nat) (s : State), Quiet s → s.sl.loader = .waiting n expiry →
    (expiry ≤ s.now + dt → exec (.eepromRetryWaitExpiry dt) s =
      .next { s with now := s.now + dt, sl := { s.sl with loader := .attempt (n + 1) } }) ∧
    (s.now + dt < expiry → exec (.eepromRetryWaitExpiry dt) s = .next { s with now := s.now + dt })

/-- EEPROM_BYTE during the sequential read (R199 to R202): an incomplete image grows; at 1,024 bytes without an END record
and its CRC the reason is NO_END; a complete one is validated: FAULT with the reason and CONFIG_FAULT, or LISTEN with the
settings held, the generator started, the own tile as write window and a bank clear begun. -/
def Obligations.EepromByteGrowsOrConcludesTheImage : Prop :=
  ∀ (dt : Nat) (value : Byte) (s : State) (image : List Byte), Quiet s → s.sl.loader = .reading →
    image = s.sl.image ++ [value] →
    (completeImage image = none → image.length < 1024 →
      exec (.eepromByte dt value) s = .next { s with now := s.now + dt, sl := { s.sl with image := image } }) ∧
    (∀ r : FaultReason,
      ((completeImage image = none ∧ 1024 ≤ image.length ∧ r = .noEnd) ∨
        ∃ records, completeImage image = some records ∧
          validate records (image.take (image.length - 2))
            (BitVec.ofNat 16 (bytesToNat (image.drop (image.length - 2)))) = .error r) →
      exec (.eepromByte dt value) s =
        .next { s with
          now := s.now + dt, mu := { Membership.reset .fault with cause := .fault r },
          sl := { s.sl with loader := .off, image := [], hostImage := [] },
          lp := s.lp.enqueue (EventRecord.configFault r), free := s.free + 1 }) ∧
    ∀ (records : List ConfigRecord) (c : Configuration), completeImage image = some records →
      validate records (image.take (image.length - 2))
        (BitVec.ofNat 16 (bytesToNat (image.drop (image.length - 2)))) = .ok c →
      exec (.eepromByte dt value) s =
        .next { s with
          now := s.now + dt, config := some c, mu := Membership.reset .listen,
          lc := { s.lc with view := if s.lc.view = .inFrame then .gap else s.lc.view, flight := none,
                            slots := Slots.empty, outbound := [], addressees := freshAddressees },
          tu := { s.tu with generator := some { blankStart := s.now + dt, correction := none, activeSince := none,
                                                lastVertical := none },
                            source := none, silent := 0 },
          cu := Commit.reset,
          fs := { s.fs with dirty := [], carry := [], inbound := [], showState := .background,
                            clear := some { begun := s.now + dt, row := 0 } },
          we := { s.we with
                  window := some { x0 := c.map.ownTile.x, y0 := c.map.ownTile.y,
                                   x1 := c.map.ownTile.x + c.map.ownTile.width - 1,
                                   y1 := c.map.ownTile.y + c.map.ownTile.height - 1 },
                  cursor := some (c.map.ownTile.x, c.map.ownTile.y) },
          sl := { s.sl with loader := .off, image := [], hostImage := [] } }

/-- What a validation that succeeds has made sure of (R1 to R5, R200): the CRC, the canvas and tile sizes, every tile inside
the canvas, no two tiles overlapping, one tile a station in ascending order, the own tile among them, and the digest of that
map. -/
def Obligations.ValidatedMapIsDisjointAndInside : Prop :=
  ∀ (records : List ConfigRecord) (covered : List Byte) (crc : BitVec 16) (c : Configuration),
    validate records covered crc = .ok c →
    crcOfBytes covered = crc ∧ (1 ≤ c.map.width ∧ c.map.width ≤ 4096 ∧ 1 ≤ c.map.height ∧ c.map.height ≤ 4096) ∧
    (∀ t ∈ c.map.tiles, 1 ≤ t.width ∧ t.width ≤ 512 ∧ 1 ≤ t.height ∧ t.height ≤ 320 ∧
      t.x + t.width ≤ c.map.width ∧ t.y + t.height ≤ c.map.height) ∧
    c.map.tiles.Pairwise (fun t u => t.station < u.station ∧ t.overlaps u = false) ∧
    (c.map.tileFor c.map.self).isSome ∧
    c.map.digest = mapDigest c.map.width c.map.height c.map.tiles ∧
    80 ≤ c.lineTime ∧ c.lineTime ≤ 2000 ∧ 4 ≤ c.blank ∧ c.blank ≤ 255 ∧
    2 ≤ c.readyLimit ∧ c.readyLimit ≤ 60 ∧ 1 ≤ c.commitLead ∧ c.commitLead ≤ 4

/-- CONFIG_RECORD (R204): in AWAIT_CONFIG and FAULT the record joins the host image; after an END record BAD_PARAM; where it
would bring the image above 1,022 bytes BUSY; in another state WRONG_STATE; with another byte count BAD_LENGTH. Nothing else
changes. -/
def Obligations.ConfigRecordEntersTheHostImage : Prop :=
  ∀ (dt : Nat) (tail : Tail) (s : State), Quiet s → s.portReady = true → ∃ (r : Result) (image : List ConfigRecord),
    exec (.configRecord dt tail) s =
      .next { s with now := s.now + dt,
                     lp := { s.lp with miso := [s.lp.lastResult.code], transaction := .idle, lastResult := r },
                     sl := { s.sl with hostImage := image } } ∧
    (r ≠ .ok → image = s.sl.hostImage) ∧
    (¬(tail.partialByte = false ∧ ∃ tag length payload, tail.bytes = tag :: length :: payload ∧
        payload.length = length.toNat) → r = .badLength) ∧
    ∀ (tag length : Byte) (payload : List Byte), tail = ⟨tag :: length :: payload, false⟩ →
      payload.length = length.toNat →
      (s.mu.state ≠ .awaitConfig ∧ s.mu.state ≠ .fault → r = .wrongState) ∧
      (s.mu.state = .awaitConfig ∨ s.mu.state = .fault →
        ((∃ q, s.sl.hostImage.getLast? = some q ∧ q.tag = 0x00#8) → r = .badParam) ∧
        ((∀ q, s.sl.hostImage.getLast? = some q → q.tag ≠ 0x00#8) →
          (1022 < (hostImageBytes s.sl.hostImage).length + (2 + payload.length) → r = .busy) ∧
          ((hostImageBytes s.sl.hostImage).length + (2 + payload.length) ≤ 1022 →
            r = .ok ∧ image = s.sl.hostImage ++ [{ tag := tag, payload := payload }])))

/-- CONFIG_END with its two bytes (R205): in AWAIT_CONFIG and FAULT an image that does not end in END has the reason NO_END,
one that does is validated with those bytes as its CRC; INVALID and FAULT, or OK and LISTEN. In another state WRONG_STATE;
with another byte count BAD_LENGTH. -/
def Obligations.ConfigEndValidatesTheHostImage : Prop :=
  (∀ (dt : Nat) (tail : Tail) (s : State), Quiet s → s.portReady = true →
    ¬(tail.bytes.length = 2 ∧ tail.partialByte = false) →
    exec (.configEnd dt tail) s =
      .next { s with now := s.now + dt, lp := { s.lp with miso := [s.lp.lastResult.code], transaction := .idle,
                                                          lastResult := .badLength } }) ∧
  ∀ (dt : Nat) (crc : List Byte) (s : State), Quiet s → s.portReady = true → crc.length = 2 →
    (s.mu.state ≠ .awaitConfig ∧ s.mu.state ≠ .fault →
      exec (.configEnd dt ⟨crc, false⟩) s =
        .next { s with now := s.now + dt, lp := { s.lp with miso := [s.lp.lastResult.code], transaction := .idle,
                                                            lastResult := .wrongState } }) ∧
    (s.mu.state = .awaitConfig ∨ s.mu.state = .fault →
      (∀ r : FaultReason,
        ((hostImageEnds s.sl.hostImage = false ∧ r = .noEnd) ∨
          (hostImageEnds s.sl.hostImage = true ∧
            validate s.sl.hostImage (hostImageBytes s.sl.hostImage) (BitVec.ofNat 16 (bytesToNat crc)) = .error r)) →
        exec (.configEnd dt ⟨crc, false⟩) s =
          .next { s with
            now := s.now + dt, mu := { Membership.reset .fault with cause := .fault r },
            sl := { s.sl with loader := .off, image := [], hostImage := [] },
            lp := ({ s.lp with miso := [s.lp.lastResult.code], transaction := .idle,
                               lastResult := .invalid } : Port).enqueue (EventRecord.configFault r),
            free := s.free + 1 }) ∧
      ∀ c : Configuration, hostImageEnds s.sl.hostImage = true →
        validate s.sl.hostImage (hostImageBytes s.sl.hostImage) (BitVec.ofNat 16 (bytesToNat crc)) = .ok c →
        exec (.configEnd dt ⟨crc, false⟩) s =
          .next { s with
            now := s.now + dt, config := some c, mu := Membership.reset .listen,
            lc := { s.lc with view := if s.lc.view = .inFrame then .gap else s.lc.view, flight := none,
                              slots := Slots.empty, outbound := [], addressees := freshAddressees },
            tu := { s.tu with generator := some { blankStart := s.now + dt, correction := none, activeSince := none,
                                                  lastVertical := none },
                              source := none, silent := 0 },
            cu := Commit.reset,
            fs := { s.fs with dirty := [], carry := [], inbound := [], showState := .background,
                              clear := some { begun := s.now + dt, row := 0 } },
            we := { s.we with
                    window := some { x0 := c.map.ownTile.x, y0 := c.map.ownTile.y,
                                     x1 := c.map.ownTile.x + c.map.ownTile.width - 1,
                                     y1 := c.map.ownTile.y + c.map.ownTile.height - 1 },
                    cursor := some (c.map.ownTile.x, c.map.ownTile.y) },
            sl := { s.sl with loader := .off, image := [], hostImage := [] },
            lp := { s.lp with miso := [s.lp.lastResult.code], transaction := .idle, lastResult := .ok } })

/-! ## The Window Engine -/

/-- SET_WINDOW (R138): eight bytes or BAD_LENGTH; without a map WRONG_STATE; a rectangle in the canvas becomes the window and
its first corner the cursor, with OK; another gives BAD_PARAM and changes neither. -/
def Obligations.SetWindowTakesACanvasRectangle : Prop :=
  ∀ (dt : Nat) (s : State), Quiet s → s.portReady = true →
    (∀ tail : Tail, lengthIs tail 8 = false →
      exec (.setWindow dt tail) s =
        .next { s with now := s.now + dt, lp := { s.lp with miso := [s.lp.lastResult.code], transaction := .idle,
                                                            lastResult := .badLength } }) ∧
    ∀ x0 y0 x1 y1 : Nat, x0 < 65536 → y0 < 65536 → x1 < 65536 → y1 < 65536 →
      ∀ tail : Tail, tail = ⟨natToBytes 2 x0 ++ natToBytes 2 y0 ++ natToBytes 2 x1 ++ natToBytes 2 y1, false⟩ →
        (s.config = none →
          exec (.setWindow dt tail) s =
            .next { s with now := s.now + dt, lp := { s.lp with miso := [s.lp.lastResult.code], transaction := .idle,
                                                                lastResult := .wrongState } }) ∧
        ∀ c, s.config = some c →
          ((x0 ≤ x1 ∧ x1 < c.map.width ∧ y0 ≤ y1 ∧ y1 < c.map.height) →
            exec (.setWindow dt tail) s =
              .next { s with
                now := s.now + dt,
                we := { s.we with window := some ⟨x0, y0, x1, y1⟩, cursor := some (x0, y0) },
                lp := { s.lp with miso := [s.lp.lastResult.code], transaction := .idle, lastResult := .ok } }) ∧
          (¬(x0 ≤ x1 ∧ x1 < c.map.width ∧ y0 ≤ y1 ∧ y1 < c.map.height) →
            exec (.setWindow dt tail) s =
              .next { s with now := s.now + dt, lp := { s.lp with miso := [s.lp.lastResult.code], transaction := .idle,
                                                                  lastResult := .badParam } })

/-- STREAM_START and STREAM_CONTINUE (R140, R141): WRONG_STATE in phase NONE, HELD in IDLE, CLOSING, WAITING and HELD, BUSY
while a local fill job runs; else taken with the collecting epoch, the assembler empty, and, for STREAM_START, the cursor
at the window's corner. -/
def Obligations.StreamIsTakenInBuildingOnly : Prop :=
  ∀ (dt : Nat) (s : State), Quiet s → s.portReady = true →
    (∀ r : Result,
      ((s.cu.phase = .absent ∧ r = .wrongState) ∨
        ((s.cu.phase = .idle ∨ s.cu.phase = .closing ∨ s.cu.phase = .waiting ∨ s.cu.phase = .held) ∧ r = .held) ∨
        (s.cu.phase = .building ∧ s.we.job.isSome ∧ r = .busy)) →
      ∀ c : Instr, (c = .streamStart dt ∨ c = .streamContinue dt) →
        exec c s =
          .next { s with
            now := s.now + dt,
            lp := { s.lp with
              miso := [s.lp.lastResult.code],
              transaction := .stream { result := r, epoch := none, overrun := false, entered := false } } }) ∧
    ∀ k : Record, s.cu.phase = .building → s.we.job = none → s.cu.record = some k →
      exec (.streamStart dt) s =
        .next { s with
          now := s.now + dt,
          we := { s.we with cursor := s.we.window.map (fun w => (w.x0, w.y0)), assembler := [] },
          lp := { s.lp with
            miso := [s.lp.lastResult.code],
            transaction := .stream { result := .ok, epoch := some k.collecting, overrun := false, entered := false } } } ∧
      exec (.streamContinue dt) s =
        .next { s with
          now := s.now + dt,
          we := { s.we with assembler := [] },
          lp := { s.lp with
            miso := [s.lp.lastResult.code],
            transaction := .stream { result := .ok, epoch := some k.collecting, overrun := false, entered := false } } }

/-- A pixel byte (R139, R142, R143, R145): the bytes of a refused or ended transaction are ignored; an incomplete pixel stays
in the assembler; a complete one enters the buffer, while it holds fewer than 32, at the cursor's point with the stream
epoch, HOLD is decided afresh, and the cursor moves: to the next column, from x1 to x0 of the next row, from (x1, y1) back to
(x0, y0). -/
def Obligations.PixelEntersTheBufferAtTheCursor : Prop :=
  ∀ (dt : Nat) (value : Byte) (s : State) (t : StreamTransaction), Quiet s → s.lp.transaction = .stream t →
    (t.epoch = none → exec (.streamPixelByte dt value) s = .next { s with now := s.now + dt }) ∧
    ∀ e : Epoch, t.epoch = some e →
      (s.we.assembler.length + 1 < s.format.bytes →
        exec (.streamPixelByte dt value) s =
          .next { s with now := s.now + dt, we := { s.we with assembler := s.we.assembler ++ [value] } }) ∧
      ∀ (w : Rect) (x y : Nat), s.format.bytes ≤ s.we.assembler.length + 1 → s.we.buffer.length < 32 →
        s.we.window = some w → s.we.cursor = some (x, y) →
        exec (.streamPixelByte dt value) s =
          .next { s with
            now := s.now + dt,
            we := { s.we with
              assembler := [],
              buffer := s.we.buffer ++
                [{ colour := hostPixel s.format (s.we.assembler ++ [value]), x := x, y := y, epoch := e, endMark := false }],
              hold := if 24 ≤ s.we.buffer.length + 1 then true
                else if s.we.buffer.length + 1 ≤ 8 then false else s.we.hold,
              cursor := some (if x = w.x1 then (if y = w.y1 then (w.x0, w.y0) else (w.x0, y + 1)) else (x + 1, y)) },
            lp := { s.lp with transaction := .stream { t with entered := true } } }

/-- A pixel completed while the buffer holds 32 (R144): its bytes are counted, saturating, the cursor stays, and the first of
a transaction, no later one, raises STREAM_OVERRUN. -/
def Obligations.OverrunPixelIsCountedAndReportedOnce : Prop :=
  ∀ (dt : Nat) (value : Byte) (s : State) (t : StreamTransaction) (e : Epoch) (k : Counters), Quiet s →
    s.lp.transaction = .stream t → t.epoch = some e → s.format.bytes ≤ s.we.assembler.length + 1 →
    32 ≤ s.we.buffer.length →
    k = { s.lp.counters with overrunBytes := saturate s.lp.counters.overrunBytes s.format.bytes } →
    (t.overrun = true →
      exec (.streamPixelByte dt value) s =
        .next { s with now := s.now + dt, we := { s.we with assembler := [] }, lp := { s.lp with counters := k } }) ∧
    (t.overrun = false →
      exec (.streamPixelByte dt value) s =
        .next { s with
          now := s.now + dt, we := { s.we with assembler := [] },
          lp := ({ s.lp with counters := k, transaction := .stream { t with overrun := true } } : Port).enqueue
            (EventRecord.only .streamOverrun),
          free := s.free + 1 })

/-- The close of an open run (R147 to R149): a local run is presented to the bank writer, or waits while an earlier one is
there; a span enters the Outbound Queue as a SPAN entry while it holds fewer than 48, or waits; whichever of the two waits, the
other is not held by it. WAITING_SPAN_ADMIT (R148, R157): the waiting spans enter, in the order they closed, as far as the
queue has room. That a second span or local run can wait behind a first is assumption 12. -/
def Obligations.ClosedRunIsPresentedQueuedOrWaits : Prop :=
  (∀ (s u : State) (r : Run), s.we.openRun = some r → u = { s with we := { s.we with openRun := none } } →
    (r.addressee = s.self →
      (s.we.localRun = none → s.we.waitingLocals = [] →
        s.closeOpenRun = { u with we := { u.we with localRun := some r } }) ∧
      (s.we.localRun ≠ none ∨ s.we.waitingLocals ≠ [] →
        s.closeOpenRun = { u with we := { u.we with waitingLocals := s.we.waitingLocals ++ [r] } })) ∧
    (r.addressee ≠ s.self →
      (s.lc.outbound.length < 48 → s.we.waitingSpans = [] →
        s.closeOpenRun = { u with lc := { u.lc with
          outbound := s.lc.outbound ++
            [{ addressee := r.addressee, epoch := r.epoch, paint := .span r.row r.start r.pixels }] } }) ∧
      (48 ≤ s.lc.outbound.length ∨ s.we.waitingSpans ≠ [] →
        s.closeOpenRun = { u with we := { u.we with waitingSpans := s.we.waitingSpans ++ [r] } }))) ∧
  (∀ s : State, s.we.openRun = none → s.closeOpenRun = s) ∧
  ∀ (s : State) (enter stay : List Run), s.Unraised → s.we.waitingSpans = enter ++ stay →
    s.lc.outbound.length + enter.length ≤ 48 → (stay = [] ∨ s.lc.outbound.length + enter.length = 48) →
    exec .waitingSpanAdmit s =
      .next { s with
        we := { s.we with waitingSpans := stay },
        lc := { s.lc with
          outbound := s.lc.outbound ++ enter.map (fun r =>
            { addressee := r.addressee, epoch := r.epoch, paint := .span r.row r.start r.pixels }) } }

/-- STREAM_RELEASE (R142, R143, R149): the transaction's result is set; the bytes of an incomplete pixel are counted and
discarded; the end mark goes on the last buffered pixel when the transaction has one, else the open run closes. A refused or
ended transaction changes nothing else. -/
def Obligations.StreamReleaseMarksTheLastPixelOrCloses : Prop :=
  ∀ (dt : Nat) (s : State) (t : StreamTransaction), Quiet s → s.lp.transaction = .stream t →
    (t.epoch = none →
      exec (.streamRelease dt) s =
        .next { s with now := s.now + dt, lp := { s.lp with transaction := .idle, lastResult := t.result } }) ∧
    ∀ (e : Epoch) (u : State), t.epoch = some e →
      u = { s with
        now := s.now + dt, we := { s.we with assembler := [] },
        lp := { s.lp with
          transaction := .idle, lastResult := t.result,
          counters := { s.lp.counters with
            overrunBytes := saturate s.lp.counters.overrunBytes s.we.assembler.length } } } →
      (∀ (older : List BufferedPixel) (p : BufferedPixel), t.entered = true → s.we.buffer = older ++ [p] →
        exec (.streamRelease dt) s =
          .next { u with we := { u.we with buffer := older ++ [{ p with endMark := true }] } }) ∧
      ((t.entered = false ∨ s.we.buffer = []) → exec (.streamRelease dt) s = .next u.closeOpenRun)

/-- ROUTE_PIXEL (R146, R147, R149), the oldest pixel p of the buffer at canvas point (x, y), no closed run waiting: a pixel
of self or of a member continues the open run when addressee, epoch, row and column agree, else the open run, if there is one,
closes and the pixel opens a new run; at 64 pixels, and when the pixel holds the end mark, its run closes; a gap pixel or a
non-member's closes the open run, and leaves the buffer and is counted, unless that close has left a closed run waiting: then it
stays at the head, not counted. While a closed run waits, or the buffer is empty, no pixel is routed. HOLD is decided afresh
(R145). What a close does is stated by ClosedRunIsPresentedQueuedOrWaits. -/
def Obligations.RouterPlacesOrCountsTheHeadPixel : Prop :=
  ∀ (dt : Nat) (s : State), Quiet s →
    (s.we.buffer = [] ∨ s.we.waitingSpans ≠ [] ∨ s.we.waitingLocals ≠ [] →
      exec (.routePixel dt) s = .next { s with now := s.now + dt }) ∧
    ∀ (p : BufferedPixel) (rest : List BufferedPixel) (c : Configuration) (u : State), s.we.buffer = p :: rest →
      s.we.waitingSpans = [] → s.we.waitingLocals = [] → s.config = some c →
      u = { s with now := s.now + dt,
                   we := { s.we with buffer := rest, hold := holdLevel s.we.hold rest.length } } →
      (∀ t : Tile, c.map.owner p.x p.y = some t → (t.station = c.map.self ∨ hasStation s.mu.members t.station) →
        (∀ r : Run, s.we.openRun = some r →
          (r.addressee = t.station ∧ r.epoch = p.epoch ∧ r.row + t.y = p.y ∧ r.start + r.pixels.length + t.x = p.x) →
          (r.pixels.length + 1 < 64 → p.endMark = false →
            exec (.routePixel dt) s =
              .next { u with we := { u.we with openRun := some { r with pixels := r.pixels ++ [p.colour] } } }) ∧
          (64 ≤ r.pixels.length + 1 ∨ p.endMark = true →
            exec (.routePixel dt) s =
              .next ({ u with
                we := { u.we with openRun := some { r with pixels := r.pixels ++ [p.colour] } } } : State).closeOpenRun)) ∧
        ((∀ r : Run, s.we.openRun = some r →
            ¬(r.addressee = t.station ∧ r.epoch = p.epoch ∧ r.row + t.y = p.y ∧
              r.start + r.pixels.length + t.x = p.x)) →
          let v : State := { u.closeOpenRun with we := { u.closeOpenRun.we with
            openRun := some
              { addressee := t.station, epoch := p.epoch, row := p.y - t.y, start := p.x - t.x,
                pixels := [p.colour] } } }
          (p.endMark = false → exec (.routePixel dt) s = .next v) ∧
          (p.endMark = true → exec (.routePixel dt) s = .next v.closeOpenRun))) ∧
      ((∀ t, c.map.owner p.x p.y = some t → t.station ≠ c.map.self ∧ hasStation s.mu.members t.station = false) →
        (u.closeOpenRun.we.waitingSpans = [] → u.closeOpenRun.we.waitingLocals = [] →
          exec (.routePixel dt) s =
            .next { u.closeOpenRun with lp := { u.lp with counters := { u.lp.counters with
              unownedPixels := saturate u.lp.counters.unownedPixels 1 } } }) ∧
        (u.closeOpenRun.we.waitingSpans ≠ [] ∨ u.closeOpenRun.we.waitingLocals ≠ [] →
          exec (.routePixel dt) s =
            .next { u.closeOpenRun with we := { u.closeOpenRun.we with buffer := p :: rest, hold := s.we.hold } }))

/-- FILL (R140, R152): the tests in order, the first that applies giving the result and changing nothing else; taken, its
entries (one for each other member whose tile the rectangle touches, by ascending station, with the tile clip as local
rectangle) enter the Outbound Queue whole and the own clip becomes the local fill job. The widths are those of the host
format. -/
def Obligations.FillIsJudgedInOrderAndTakenWhole : Prop :=
  ∀ (dt : Nat) (tail : Tail) (s : State), Quiet s → s.portReady = true →
    (∀ r : Result,
      (lengthIs tail (8 + s.format.bytes) = false ∧ r = .badLength) ∨
        (lengthIs tail (8 + s.format.bytes) = true ∧
          ((s.cu.phase = .absent ∧ r = .wrongState) ∨
            (s.cu.phase ≠ .absent ∧ s.cu.phase ≠ .building ∧ r = .held) ∨
            (s.cu.phase = .building ∧ s.we.job.isSome ∧ r = .busy))) →
      exec (.fill dt tail) s =
        .next { s with now := s.now + dt, lp := { s.lp with miso := [s.lp.lastResult.code], transaction := .idle,
                                                            lastResult := r } }) ∧
    ∀ (c : Configuration) (k : Record) (rect : Rect) (colour : Pixel) (entries : List OutEntry),
      lengthIs tail (8 + s.format.bytes) = true → s.cu.phase = .building → s.we.job = none → s.config = some c →
      s.cu.record = some k → rect = rectOfBytes tail.bytes → colour = hostPixel c.format (tail.bytes.drop 8) →
      entries = (c.map.tiles.filter (fun t => t.station ≠ c.map.self ∧ hasStation s.mu.members t.station)).filterMap
        (fun t => (t.clip rect).map (fun r => { addressee := t.station, epoch := k.collecting, paint := .fill r colour })) →
      (∀ r : Result,
        (¬(rect.x0 ≤ rect.x1 ∧ rect.x1 < c.map.width ∧ rect.y0 ≤ rect.y1 ∧ rect.y1 < c.map.height) ∧ r = .badParam) ∨
          ((rect.x0 ≤ rect.x1 ∧ rect.x1 < c.map.width ∧ rect.y0 ≤ rect.y1 ∧ rect.y1 < c.map.height) ∧ r = .busy ∧
            (s.streamPathEmpty = false ∨ 48 < s.lc.outbound.length + entries.length)) →
        exec (.fill dt tail) s =
          .next { s with now := s.now + dt, lp := { s.lp with miso := [s.lp.lastResult.code], transaction := .idle,
                                                              lastResult := r } }) ∧
      ((rect.x0 ≤ rect.x1 ∧ rect.x1 < c.map.width ∧ rect.y0 ≤ rect.y1 ∧ rect.y1 < c.map.height) →
        s.streamPathEmpty = true → s.lc.outbound.length + entries.length ≤ 48 →
        exec (.fill dt tail) s =
          .next { s with
            now := s.now + dt,
            lc := { s.lc with outbound := s.lc.outbound ++ entries },
            we := { s.we with
              job := ((c.map.tileFor c.map.self).bind (fun t => t.clip rect)).map
                (fun r => { epoch := k.collecting, colour := colour, rect := r, nextRow := r.y0 }) },
            lp := { s.lp with miso := [s.lp.lastResult.code], transaction := .idle, lastResult := .ok } })

/-- R142: a 16-bit pixel's red and blue are widened by their own top three bits, green by its top two. -/
def Obligations.WideningRepeatsTheTopBits : Prop :=
  ∀ v : BitVec 16,
    widenPixel v.toNat =
      v.extractLsb' 11 5 ++ v.extractLsb' 13 3 ++ (v.extractLsb' 5 6 ++ v.extractLsb' 9 2) ++
        (v.extractLsb' 0 5 ++ v.extractLsb' 2 3)

/-- The tile clip point by point (R10, R8): "empty" exactly when no point of the rectangle lies in the tile; else a local
point lies in the clip exactly when the canvas point it stands for lies in the rectangle and in the tile. -/
def Obligations.TileClipHoldsTheCommonPoints : Prop :=
  ∀ (t : Tile) (r : Rect), 1 ≤ t.width → 1 ≤ t.height → r.x0 ≤ r.x1 → r.y0 ≤ r.y1 →
    (t.clip r = none ↔ ∀ x y, r.x0 ≤ x → x ≤ r.x1 → r.y0 ≤ y → y ≤ r.y1 → t.covers x y = false) ∧
    ∀ q, t.clip r = some q → ∀ x y,
      (q.x0 ≤ x ∧ x ≤ q.x1 ∧ q.y0 ≤ y ∧ y ≤ q.y1) ↔
        (r.x0 ≤ x + t.x ∧ x + t.x ≤ r.x1 ∧ r.y0 ≤ y + t.y ∧ y + t.y ≤ r.y1 ∧ t.covers (x + t.x) (y + t.y) = true)

/-! ## The Commit Unit -/

/-- PRESENT (R90): with the command byte alone, OK in BUILDING, which becomes CLOSING; HELD in IDLE, CLOSING, WAITING and HELD;
WRONG_STATE in phase NONE; with more bytes BAD_LENGTH. Nothing else changes. -/
def Obligations.PresentClosesABuildingEpoch : Prop :=
  ∀ (dt : Nat) (tail : Tail) (s : State), Quiet s → s.portReady = true →
    (tail = ⟨[], false⟩ → s.cu.phase = .building →
      exec (.present dt tail) s =
        .next { s with now := s.now + dt, cu := { s.cu with phase := .closing },
                       lp := { s.lp with miso := [s.lp.lastResult.code], transaction := .idle, lastResult := .ok } }) ∧
    (¬(tail = ⟨[], false⟩ ∧ s.cu.phase = .building) →
      exec (.present dt tail) s =
        .next { s with
          now := s.now + dt,
          lp := { s.lp with
            miso := [s.lp.lastResult.code], transaction := .idle,
            lastResult := if tail = ⟨[], false⟩ then (if s.cu.phase = .absent then .wrongState else .held)
              else .badLength } })

/-- READY_QUEUED (R91): in CLOSING, with the stream path empty, no local fill job, no outbound entry of epoch c, the carry list
empty and no READY queued, READY(c) enters its slot; while one of these fails, or in another phase, nothing happens.
READY_WAIT_EXPIRY, found due (R102, R30): DROP(R \ Y) is requested, filling the DROP slot or joining its set; with R \ Y
empty nothing is requested. -/
def Obligations.ReadyIsQueuedOnceDrainedAndItsWaitEndsInDrop : Prop :=
  (∀ (s : State) (r : Record), s.Unraised → s.cu.record = some r →
    ((s.cu.phase = .closing ∧ s.we.buffer = [] ∧ s.we.openRun = none ∧ s.we.waitingSpans = [] ∧
        s.we.waitingLocals = [] ∧ s.we.localRun = none ∧ s.we.job = none ∧
        (∀ e ∈ s.lc.outbound, e.epoch ≠ r.collecting) ∧ s.fs.carry = [] ∧ s.lc.slots.ready = none) →
      exec .readyQueued s =
        .next { s with lc := { s.lc with slots := { s.lc.slots with
          ready := some { epoch := r.collecting, retry := { attempts := 0, expiry := none } } } } }) ∧
    (¬(s.cu.phase = .closing ∧ s.we.buffer = [] ∧ s.we.openRun = none ∧ s.we.waitingSpans = [] ∧
        s.we.waitingLocals = [] ∧ s.we.localRun = none ∧ s.we.job = none ∧
        (∀ e ∈ s.lc.outbound, e.epoch ≠ r.collecting) ∧ s.fs.carry = [] ∧ s.lc.slots.ready = none) →
      exec .readyQueued s = .next s)) ∧
  ∀ (s : State) (r : Record) (missing : StationSet), s.Unraised → s.handed.readyWait = true → s.cu.record = some r →
    missing = setMinus r.required r.ready →
    (missing = 0#16 → exec .readyWaitExpiry s = .next { s with handed := { s.handed with readyWait := false } }) ∧
    (missing ≠ 0#16 →
      exec .readyWaitExpiry s =
        .next { s with
          handed := { s.handed with readyWait := false },
          lc := { s.lc with slots := { s.lc.slots with
            drop := some (match s.lc.slots.drop with
              | none => { stations := missing, retry := { attempts := 0, expiry := none } }
              | some d => { d with stations := d.stations ||| missing }) } } })

/-- FLIP, found due (R106, R107, R128, R185): the banks change places, the carry list becomes the dirty rows under KEEP and
every row of the tile under CLEAR, the dirty set empties, the front bank is shown; the last commit is flipped and the phase
becomes BUILDING when self is in R, else IDLE; PRS is asserted until one line time after the vertical start; FLIPPED is
raised, and, when the count is not the flip frame, LATE_FLIP after it with late flips counted. FLIP_PASSED, found due (R108):
the last commit is flipped, with nothing else. -/
def Obligations.FlipSwapsBanksAndOpensTheNextEpoch : Prop :=
  ∀ (s : State) (r : Record) (l : LastCommit), s.Unraised → s.cu.record = some r → r.pendingFlip = some l →
    (∀ (c : Configuration) (g : Generator) (v : Nat) (t : State), s.handed.flip = true → s.config = some c →
      s.tu.generator = some g → g.lastVertical = some v →
      t = { s with
        handed := { s.handed with flip := false },
        fs := { s.fs with
          front := s.fs.front.other, dirty := [], showState := .front,
          carry := match c.policy with
            | .keep => s.fs.dirty
            | .clear => List.range c.map.ownTile.height },
        cu := { s.cu with
          record := some { r with last := some { l with flipped := true } },
          phase := if hasStation r.required c.map.self then .building else .idle },
        lp := { s.lp with prs := some (v + c.lineTime) },
        free := s.free + 1 } →
      (s.tu.count = l.flipFrame →
        exec .flip s = .next { t with lp := t.lp.enqueue (EventRecord.flipped l.epoch) }) ∧
      (s.tu.count ≠ l.flipFrame →
        exec .flip s =
          .next { t with
            lp := (({ t.lp with
              counters := { t.lp.counters with lateFlips := saturate t.lp.counters.lateFlips 1 } } : Port).enqueue
                (EventRecord.flipped l.epoch)).enqueue (EventRecord.lateFlip l.epoch (s.tu.count - l.flipFrame)) })) ∧
    (s.handed.flipPassed = true →
      exec .flipPassed s =
        .next { s with handed := { s.handed with flipPassed := false },
                       cu := { s.cu with record := some { r with last := some { l with flipped := true } } } })

/-! ## The Membership Unit: host commands and passages -/

/-- LEAVE and JOIN from the host (R56, R66): LEAVE is taken in MEMBER alone and fills the LEAVE slot once; JOIN is taken in
EVICTED and DETACHED alone and enters LISTEN with its entry effects (R45, R84, R115, R121). Elsewhere WRONG_STATE; with more
bytes than the command byte BAD_LENGTH. -/
def Obligations.LeaveAndJoinAreTakenByState : Prop :=
  ∀ (dt : Nat) (s : State), Quiet s → s.portReady = true →
    (s.mu.state = .member →
      exec (.leave dt ⟨[], false⟩) s =
        .next { s with
          now := s.now + dt,
          lc := { s.lc with slots := { s.lc.slots with
            leave := some (s.lc.slots.leave.getD { attempts := 0, expiry := none }) } },
          lp := { s.lp with miso := [s.lp.lastResult.code], transaction := .idle, lastResult := .ok } }) ∧
    (s.mu.state = .evicted ∨ s.mu.state = .detached →
      exec (.join dt ⟨[], false⟩) s =
        .next { s with
          now := s.now + dt, mu := Membership.reset .listen,
          lc := { s.lc with flight := none, slots := Slots.empty, outbound := [], addressees := freshAddressees },
          tu := { s.tu with source := none, silent := 0 }, cu := Commit.reset,
          fs := { s.fs with dirty := [], carry := [], inbound := [], showState := .background,
                            clear := some { begun := s.now + dt, row := 0 } },
          lp := { s.lp with miso := [s.lp.lastResult.code], transaction := .idle, lastResult := .ok } }) ∧
    ∀ (c : Instr) (r : Result),
      ((c = .leave dt ⟨[], false⟩ ∧ s.mu.state ≠ .member ∧ r = .wrongState) ∨
        (c = .join dt ⟨[], false⟩ ∧ s.mu.state ≠ .evicted ∧ s.mu.state ≠ .detached ∧ r = .wrongState) ∨
        ∃ tail : Tail, tail ≠ ⟨[], false⟩ ∧ (c = .leave dt tail ∨ c = .join dt tail) ∧ r = .badLength) →
      exec c s =
        .next { s with now := s.now + dt,
                       lp := { s.lp with miso := [s.lp.lastResult.code], transaction := .idle, lastResult := r } }

/-- JOINING_PASSAGE (R49): in LISTEN with listen count 4 and no bank clear in progress, JOINING is entered and the JOIN slot
filled; otherwise nothing happens. -/
def Obligations.JoiningFollowsListeningAndTheBankClear : Prop :=
  ∀ s : State, s.Unraised →
    ((s.mu.state = .listen ∧ s.mu.listenCount = 4 ∧ s.fs.clear = none) →
      exec .joiningPassage s =
        .next { s with
          mu := { s.mu with state := .joining },
          lc := { s.lc with slots := { s.lc.slots with join := some { attempts := 0, expiry := none } } } }) ∧
    (¬(s.mu.state = .listen ∧ s.mu.listenCount = 4 ∧ s.fs.clear = none) → exec .joiningPassage s = .next s)

/-! ## The Timing Unit: losses -/

/-- LOCK_LOSS, found due (R80): the lock state becomes FREE, with LOCK(FREE) when it was not. BEACON_LOSS, found due (R81): a
MEMBER whose source x is another member, the silent count being 3 + 2k or more for its rank k, requests DROP({x}). -/
def Obligations.LockLossAndBeaconLoss : Prop :=
  ∀ s : State, s.Unraised →
    (s.handed.lockLoss = true → s.tu.lock ≠ .free →
      exec .lockLoss s =
        .next { s with handed := { s.handed with lockLoss := false }, tu := { s.tu with lock := .free },
                       lp := s.lp.enqueue (EventRecord.lock .free), free := s.free + 1 }) ∧
    (∀ x : Station, s.handed.beaconLoss = true → s.mu.state = .member → s.tu.source = some x →
      hasStation s.mu.members x = true → x ≠ s.self →
      3 + 2 * ((List.finRange 16).filter (fun y => hasStation s.mu.members y ∧ y ≠ x ∧ y < s.self)).length ≤ s.tu.silent →
      exec .beaconLoss s =
        .next { s with
          handed := { s.handed with beaconLoss := false },
          lc := { s.lc with slots := { s.lc.slots with
            drop := some (match s.lc.slots.drop with
              | none => { stations := oneStation x, retry := { attempts := 0, expiry := none } }
              | some d => { d with stations := d.stations ||| oneStation x }) } } })

/-- VERTICAL_START, due when the active rows are over (R46, R68, R69, R71, R76, R79, R80, R101): the count and the vertical
starts since the latest start field go up by 1, a blank begins now with a held correction set on it, the silent count goes up
to at most 255; the listen count goes up in LISTEN to at most 4, the ready-wait timer in WAITING to at most 60; the beacon
slot is filled when the beacon rule holds. It finds due: the flip when its test passes on the new count (R105), the lock loss
at silent count 3 (R80), the beacon loss (R81), the ready-wait expiry at the limit L (R102). In the verdict slots of a frame
the slots keep the view of the state before it (R131, R168). Before it is due only time passes. -/
def Obligations.VerticalStartCountsAndFindsDue : Prop :=
  ∀ (dt : Nat) (inVerdict : Bool) (s : State) (c : Configuration) (g : Generator) (a : Nat), Quiet s → s.config = some c →
    s.tu.generator = some g → g.activeSince = some a →
    (s.now + dt < a + c.map.ownTile.height * c.lineTime →
      exec (.verticalStart dt inVerdict) s = .next { s with now := s.now + dt }) ∧
    (a + c.map.ownTile.height * c.lineTime ≤ s.now + dt →
      ∃ t, exec (.verticalStart dt inVerdict) s = .next t ∧
        t = { s with now := t.now, tu := t.tu, mu := t.mu, cu := t.cu, lc := t.lc, handed := t.handed } ∧
        t.now = s.now + dt ∧
        t.tu = { s.tu with
          generator := some { blankStart := s.now + dt, correction := s.tu.held, activeSince := none,
                              lastVertical := some (s.now + dt) },
          held := none, count := s.tu.count + 1, startsSince := s.tu.startsSince + 1,
          silent := min 255 (s.tu.silent + 1) } ∧
        t.mu = { s.mu with
          listenCount := if s.mu.state = .listen then min 4 (s.mu.listenCount + 1) else s.mu.listenCount } ∧
        t.cu = { s.cu with timer := if s.cu.phase = .waiting then min 60 (s.cu.timer + 1) else s.cu.timer } ∧
        t.lc = { s.lc with
          slotView := if inVerdict = true ∧ s.lc.view = .inFrame ∧ s.lc.slotView = none then some s.slotViewNow
            else s.lc.slotView,
          slots := { s.lc.slots with
            beacon := s.lc.slots.beacon || (decide (s.mu.state = .member) && s.mu.synced &&
              match s.tu.source with
              | none => true
              | some x => !hasStation s.mu.members x || decide (c.map.self ≤ x)) } } ∧
        t.handed.flip = t.flipTest ∧ t.handed.flipPassed = t.flipPassedTest ∧
        (t.handed.lockLoss = true ↔ t.tu.silent = 3 ∧ s.tu.lock ≠ .free) ∧
        (t.handed.beaconLoss = true ↔ ∃ x, s.tu.source = some x ∧ s.mu.state = .member ∧
          hasStation s.mu.members x = true ∧ x ≠ c.map.self ∧ 3 + 2 * rank s.mu.members x c.map.self ≤ t.tu.silent) ∧
        (t.handed.readyWait = true ↔ s.cu.phase = .waiting ∧ c.readyLimit ≤ t.cu.timer))

/-- The flip test of R105 and R134, a synced MEMBER with a pending flip of epoch p and flip frame F: the count has reached F (or
F lies 9 or more frames ahead), the inbound queue holds no entry of epoch p, no write of epoch p is in the bank writer or
requested, and the carry list is empty. The test of R108, in LISTEN and JOINING with a pending flip: the first of these
conditions alone. Without a pending flip neither passes. -/
def Obligations.FlipTestAsksForTheFrameAndTheRows : Prop :=
  (∀ (s : State) (l : LastCommit), s.pendingFlip = some l →
    (s.flipTest = true ↔
      (s.mu.state = .member ∧ s.mu.synced = true) ∧
      ((s.tu.count - l.flipFrame).toNat < 2 ^ 31 ∨
        (9 ≤ (l.flipFrame - s.tu.count).toNat ∧ (l.flipFrame - s.tu.count).toNat ≤ 2 ^ 31)) ∧
      (∀ e ∈ s.fs.inbound, e.epoch ≠ l.epoch) ∧
      (∀ o, s.fs.operation = some o → o.epoch ≠ l.epoch) ∧ (∀ r, s.we.localRun = some r → r.epoch ≠ l.epoch) ∧
      (∀ j, s.we.job = some j → j.epoch ≠ l.epoch) ∧ s.fs.carry = []) ∧
    (s.flipPassedTest = true ↔
      (s.mu.state = .listen ∨ s.mu.state = .joining) ∧
      ((s.tu.count - l.flipFrame).toNat < 2 ^ 31 ∨
        (9 ≤ (l.flipFrame - s.tu.count).toNat ∧ (l.flipFrame - s.tu.count).toNat ≤ 2 ^ 31)))) ∧
  ∀ s : State, s.pendingFlip = none → s.flipTest = false ∧ s.flipPassedTest = false

/-- VERTICAL_BLANK_END (R79): due at the nominal end of the blank plus the correction set on it, not earlier than one line
time after its vertical start, it begins the active rows. PRS_RELEASE (R185): due at its time, it releases PRS. Before they
are due only time passes. The panel output (R68, R120), at `fine` periods of 12.5 ns after the clock: all low with PCLK
stopped while the generator is stopped or no settings are held; while it runs, HSYNC in the first 0.4 µs (32 periods) of every
line, VSYNC in the first two lines of the blank, DE in active rows for width_self pixels from 1.0 µs (80 periods) on, and RGB,
during DE, the background colour or the front bank's pixel by the show state, else 0. While the bank clear runs, a row it has
not reached reads as the background colour (R122). -/
def Obligations.BlankEndAndPrsReleaseComeInTime : Prop :=
  (∀ (dt : Nat) (s : State), Quiet s →
    (∀ (c : Configuration) (g : Generator) (ending : Int), s.config = some c → s.tu.generator = some g →
      g.activeSince = none →
      ending = max ((g.blankStart : Int) + c.lineTime) (g.blankStart + c.blank * c.lineTime + g.correction.getD 0) →
      (ending ≤ s.now + dt →
        exec (.verticalBlankEnd dt) s =
          .next { s with now := s.now + dt,
                         tu := { s.tu with generator := some { g with activeSince := some (s.now + dt) } } }) ∧
      (s.now + dt < ending → exec (.verticalBlankEnd dt) s = .next { s with now := s.now + dt })) ∧
    ∀ at_ : Nat, s.lp.prs = some at_ →
      (at_ ≤ s.now + dt →
        exec (.prsRelease dt) s = .next { s with now := s.now + dt, lp := { s.lp with prs := none } }) ∧
      (s.now + dt < at_ → exec (.prsRelease dt) s = .next { s with now := s.now + dt })) ∧
  ∀ (s : State) (fine : Nat), fine < 8 →
    (s.config = none ∨ s.tu.generator = none →
      s.panelPins fine = { pclkRuns := false, hsync := false, vsync := false, de := false, rgb := 0#24 }) ∧
    ∀ (c : Configuration) (g : Generator) (line period : Nat), s.config = some c → s.tu.generator = some g →
      (g.activeSince = none → line < c.blank → g.blankStart + line * c.lineTime ≤ s.now →
        s.now < g.blankStart + (line + 1) * c.lineTime →
        period = (s.now - (g.blankStart + line * c.lineTime)) * 8 + fine →
        s.panelPins fine =
          { pclkRuns := true, hsync := decide (period < 32), vsync := decide (line < 2), de := false, rgb := 0#24 }) ∧
      ∀ a : Nat, g.activeSince = some a → line < c.map.ownTile.height → a + line * c.lineTime ≤ s.now →
        s.now < a + (line + 1) * c.lineTime → period = (s.now - (a + line * c.lineTime)) * 8 + fine →
        s.panelPins fine =
          { pclkRuns := true, hsync := decide (period < 32), vsync := false,
            de := decide (80 ≤ period ∧ period < 80 + c.map.ownTile.width),
            rgb := if 80 ≤ period ∧ period < 80 + c.map.ownTile.width then
                (match s.fs.showState with
                  | .background => c.background
                  | .front =>
                    if s.fs.clear.any (fun k => k.row ≤ line) then c.background
                    else readPixel (s.fs.bank s.fs.front) line (period - 80))
              else 0#24 }

/-- R76 and R78: the phase error is the raw difference brought into −P/2 (left out) to P/2 by one period P, with the frame
offset that goes with it; within 2 line times the station is LOCKED and the correction is the error; beyond, ACQUIRING and
the error limited to 8 line times either way. -/
def Obligations.PhaseErrorIsHalvedLockedAndLimited : Prop :=
  (∀ (raw : Int) (p : Nat), 0 < p → -(p : Int) < raw → raw < p →
    let q := phaseError raw p
    (-(p : Int) < 2 * q.1 ∧ 2 * q.1 ≤ p) ∧ raw = q.1 - q.2 * p ∧ (q.2 = -1 ∨ q.2 = 0 ∨ q.2 = 1)) ∧
  ∀ (e : Int) (lt : Nat),
    ((-(2 * lt : Int) ≤ e ∧ e ≤ 2 * lt) → lockAndCorrection e lt = (.locked, e)) ∧
    (2 * (lt : Int) < e → lockAndCorrection e lt = (.acquiring, min e (8 * lt))) ∧
    (e < -(2 * lt : Int) → lockAndCorrection e lt = (.acquiring, max e (-(8 * lt))))

/-! ## The Wall Link: idle, start fields, holdoffs -/

/-- LINK_IDLE brings the receiver into step with nothing on the wire (R16); FRAME_CUT_SHORT (R22) and the end of a frame at a
station that did not take part in it from its start field leave everything but the wait for the next idle as it was. A station
that had lost a bit of its own frame after the contention field, in a frame then cut short, is in CONFLICT(ID) (R21, R41), which
the model enters at that row (assumption 14). Nothing is counted at a cut (R40), of a frame lost before it either (assumption
38). -/
def Obligations.LinkIdleCutFramesAndFramesOutOfStep : Prop :=
  ∀ (dt : Nat) (s : State), Quiet s →
    exec (.linkIdle dt) s =
      .next { s with now := s.now + dt, lc := { s.lc with view := .idle, flight := none, slotView := none } } ∧
    (s.lc.view = .inFrame →
      (∀ lostBit : Bool, (lostBit = false ∨ s.lc.flight = none) →
        exec (.frameCutShort ⟨dt, lostBit⟩) s = .next { s with now := s.now + dt, lc := s.lc.afterFrame }) ∧
      ∀ a : Attempt, s.lc.flight = some a →
        ∃ t, exec (.frameCutShort ⟨dt, true⟩) s = .next t ∧ t.mu.state = .conflict ∧ t.mu.cause = .id ∧
          t.lc.slots = Slots.empty ∧ t.lc.outbound = [] ∧ t.lc.view = .gap) ∧
    (s.lc.view ≠ .inFrame → ∀ (c : Instr) (e : FrameEnd) (lostBit : Bool),
      (c = .frameCutShort ⟨dt, lostBit⟩ ∨ c = .beacon dt e ∨ c = .joinFrame dt e ∨ c = .leaveFrame dt e ∨
        c = .readyFrame dt e ∨ c = .dropFrame dt e ∨ c = .spanFrame dt e ∨ c = .fillFrame dt e) →
      exec c s = .next { s with now := s.now + dt })

/-- FRAME_START on an idle link (R19, R24, R76): the time since the station's vertical start is recorded and its vertical
starts are counted from here; a frame of others alone is received; a JOINING or MEMBER station's own frame carries its
highest eligible item: the beacon, the DROP, LEAVE, JOIN and READY slots not in holdoff in that order, then the oldest
outbound entry whose addressee is not in holdoff (R159), with the stamp and the other values of that moment. A beacon and a
DROP carry fields of the collection record; a station that holds none offers the other four in the same order (that it offers
no beacon and no DROP is assumption 8), and their frames need none. -/
def Obligations.FrameStartOffersTheHighestItem : Prop :=
  ∀ (dt : Nat) (s u : State) (c : Configuration) (g : Generator) (v : Nat), Quiet s → s.lc.view = .idle →
    s.config = some c → s.tu.generator = some g → g.lastVertical = some v → u = { s with now := s.now + dt } →
    exec (.frameStart dt .others) s =
      .next { u with lc := { u.lc with view := .inFrame, flight := none, slotView := none },
                     tu := { u.tu with startPhase := some (u.now - v), startsSince := 0 } } ∧
    (s.mu.state ≠ .joining → s.mu.state ≠ .member → exec (.frameStart dt .ours) s = .next u) ∧
    (∀ (r : Record) (item : Item) (frame : WireFrame), (s.mu.state = .joining ∨ s.mu.state = .member) →
      s.cu.record = some r → u.eligibleItem = some item →
      frame = (match item with
        | .beacon => makeFrame .beacon c.map.self (BeaconBody.bytes
            { count := s.tu.count, launchDelay := u.now - v, digest := c.map.digest, members := s.mu.members,
              collecting := r.collecting, required := r.required, ready := r.ready,
              last := r.last.map (fun l => (l.epoch, l.flipFrame)) })
        | .drop => makeFrame .drop c.map.self (DropBody.bytes
            { completing := { stamp := s.tu.count, lead := c.commitLead }, epoch := r.collecting,
              stations := s.lc.slots.drop.elim 0#16 DropSlot.stations })
        | .leave => makeFrame .leave c.map.self (LeaveBody.bytes
            { completing := { stamp := s.tu.count, lead := c.commitLead } })
        | .join => makeFrame .join c.map.self (JoinBody.bytes
            { completing := { stamp := s.tu.count, lead := c.commitLead }, digest := c.map.digest })
        | .ready => makeFrame .ready c.map.self (ReadyBody.bytes
            { completing := { stamp := s.tu.count, lead := c.commitLead },
              epoch := s.lc.slots.ready.elim 0#16 ReadySlot.epoch })
        | .outbound e =>
          match e.paint with
          | .span _ _ _ => makeFrame .span c.map.self (PaintBody.bytes
              { addressee := e.addressee.val, epoch := e.epoch, paint := e.paint })
          | .fill _ _ => makeFrame .fill c.map.self (PaintBody.bytes
              { addressee := e.addressee.val, epoch := e.epoch, paint := e.paint })) →
      exec (.frameStart dt .ours) s =
        .next { u with
          lc := { u.lc with view := .inFrame, slotView := none, flight := some { item := item, frame := frame } },
          tu := { u.tu with startPhase := some (u.now - v), startsSince := 0 } }) ∧
    (∀ (item : Item) (frame : WireFrame), (s.mu.state = .joining ∨ s.mu.state = .member) → u.eligibleItem = some item →
      ((item = .leave ∧ frame = makeFrame .leave c.map.self (LeaveBody.bytes
            { completing := { stamp := s.tu.count, lead := c.commitLead } })) ∨
        (item = .join ∧ frame = makeFrame .join c.map.self (JoinBody.bytes
            { completing := { stamp := s.tu.count, lead := c.commitLead }, digest := c.map.digest })) ∨
        (∃ q, s.lc.slots.ready = some q ∧ item = .ready ∧ frame = makeFrame .ready c.map.self (ReadyBody.bytes
            { completing := { stamp := s.tu.count, lead := c.commitLead }, epoch := q.epoch })) ∨
        (∃ e row start pixels, item = .outbound e ∧ e.paint = .span row start pixels ∧
          frame = makeFrame .span c.map.self (PaintBody.bytes
            { addressee := e.addressee.val, epoch := e.epoch, paint := .span row start pixels })) ∨
        ∃ e rect colour, item = .outbound e ∧ e.paint = .fill rect colour ∧
          frame = makeFrame .fill c.map.self (PaintBody.bytes
            { addressee := e.addressee.val, epoch := e.epoch, paint := .fill rect colour })) →
      exec (.frameStart dt .ours) s =
        .next { u with
          lc := { u.lc with view := .inFrame, slotView := none, flight := some { item := item, frame := frame } },
          tu := { u.tu with startPhase := some (u.now - v), startsSince := 0 } }) ∧
    (u.eligibleItem = none → exec (.frameStart dt .ours) s = .next u) ∧
    ∀ eligible : Option Retry → Prop, (∀ x, eligible x ↔ ∃ q, x = some q ∧ q.inHoldoff u.now = false) →
      (s.cu.record.isSome → s.lc.slots.beacon = true → u.eligibleItem = some .beacon) ∧
      (s.cu.record.isSome → s.lc.slots.beacon = false → eligible (s.lc.slots.retry .drop) →
        u.eligibleItem = some .drop) ∧
      ((s.cu.record = none ∨ (s.lc.slots.beacon = false ∧ ¬eligible (s.lc.slots.retry .drop))) →
        (eligible (s.lc.slots.retry .leave) → u.eligibleItem = some .leave) ∧
        (¬eligible (s.lc.slots.retry .leave) →
          (eligible (s.lc.slots.retry .join) → u.eligibleItem = some .join) ∧
          (¬eligible (s.lc.slots.retry .join) →
            (eligible (s.lc.slots.retry .ready) → u.eligibleItem = some .ready) ∧
            (¬eligible (s.lc.slots.retry .ready) →
              u.eligibleItem = (s.lc.outbound.find?
                (fun e => !(s.lc.addressees[e.addressee.val]).inHoldoff u.now)).map Item.outbound))))

/-- The holdoff after attempt count n (R33, R163) in units of 0.1 µs: 20 µs doubled n − 1 times, at most 1,280 µs.
HOLDOFF_EXPIRY and ADDRESSEE_HOLDOFF_EXPIRY: an expiry that has come is absent from then on; before it comes only time
passes. -/
def Obligations.HoldoffsDoubleAndExpire : Prop :=
  (holdoff 1 = 200 ∧ holdoff 2 = 400 ∧ holdoff 3 = 800 ∧ holdoff 4 = 1600 ∧ holdoff 5 = 3200 ∧ holdoff 6 = 6400 ∧
    ∀ n, 7 ≤ n → holdoff n = 12800) ∧
  ∀ (dt : Nat) (s : State) (r : Retry) (expiry : Nat), Quiet s → r.expiry = some expiry →
    (∀ slot : ControlSlot, s.lc.slots.retry slot = some r →
      (expiry ≤ s.now + dt →
        exec (.holdoffExpiry dt slot) s =
          .next { s with now := s.now + dt,
                         lc := { s.lc with slots := s.lc.slots.setRetry slot { r with expiry := none } } } ∧
        (s.lc.slots.setRetry slot { r with expiry := none }).retry slot = some { r with expiry := none }) ∧
      (s.now + dt < expiry → exec (.holdoffExpiry dt slot) s = .next { s with now := s.now + dt })) ∧
    ∀ x : Station, s.lc.addressees[x.val] = r →
      (expiry ≤ s.now + dt →
        exec (.addresseeHoldoffExpiry dt x) s =
          .next { s with now := s.now + dt,
                         lc := { s.lc with
                           addressees := s.lc.addressees.set x.val { r with expiry := none } x.isLt } }) ∧
      (s.now + dt < expiry → exec (.addresseeHoldoffExpiry dt x) s = .next { s with now := s.now + dt })

/-! ## The Wall Link: frames received -/

/-- A frame of any kind received with an error, or spoiled by another station, is applied nowhere: in LISTEN, JOINING and
MEMBER it counts one spoil (R26, R28, R40), in LOADING, AWAIT_CONFIG and FAULT, and for kinds other than the
beacon in EVICTED, DETACHED and CONFLICT, nothing happens (R23, R29). A JOIN of an unequal digest is left to
JoinFrameIsAppliedByState. A frame whose length and complement disagree is lost and counted (R25). A station that loses
contention, a released bit of the first six read driven (R20), takes the frame of the winner as a receiver does that sent
nothing; its own item stays as it was, with no attempt counted. -/
def Obligations.SpoiledAndLostFramesOnlyCount : Prop :=
  (∀ (dt n : Nat) (s : State) (a : Attempt) (e : FrameEnd), s.Sending a →
    firstDifference 0 a.frame.bits e.frame.bits = some (n, true) → n < 6 →
    ∀ c ∈ [Instr.beacon dt e, .joinFrame dt e, .leaveFrame dt e, .readyFrame dt e, .dropFrame dt e, .spanFrame dt e,
        .fillFrame dt e],
      exec c s = exec c { s with lc := { s.lc with flight := none } }) ∧
  ∀ (dt : Nat) (s : State) (e : FrameEnd) (c : Instr) (k : FrameKind), s.Receiving →
    ((k = .beacon ∧ c = .beacon dt e) ∨ (k = .join ∧ c = .joinFrame dt e) ∨ (k = .leave ∧ c = .leaveFrame dt e) ∨
      (k = .ready ∧ c = .readyFrame dt e) ∨ (k = .drop ∧ c = .dropFrame dt e) ∨ (k = .span ∧ c = .spanFrame dt e) ∨
      (k = .fill ∧ c = .fillFrame dt e)) →
    ((s.mu.state = .listen ∨ s.mu.state = .joining ∨ s.mu.state = .member) → s.unequalJoin k e.frame s.mu.state = false →
      (e.otherSpoil = true ∨ e.frame.lengthFound = false ∨ s.checkedBody k e.frame = none) →
      exec c s =
        .next { s with
          now := s.now + dt, lc := s.lc.afterFrame,
          lp := { s.lp with counters := { s.lp.counters with spoilsSeen := saturate s.lp.counters.spoilsSeen 1 } } }) ∧
    ((s.mu.state.mapless = true ∨
        ((s.mu.state = .evicted ∨ s.mu.state = .detached ∨ s.mu.state = .conflict) ∧ k ≠ .beacon)) →
      exec c s = .next { s with now := s.now + dt, lc := s.lc.afterFrame })

/-- JOIN_FRAME of another station x, read correctly, delivered (R47, R53, R65, R82, R95, R97) or, for its digest, spoiled
(R14, R26, R50). In MEMBER: x joins the table and leaves the FOREIGN set, JOINED(x) is raised and the beacon-loss test made
again; a station already in the table rejoins: it leaves R and Y and the completion check is made. In LISTEN and JOINING
with an equal digest x joins the table and counts as a member recorded; one already there rejoins too (the model's reading of
R95 in those states, assumption 26). A JOIN of another digest is spoiled in JOINING and MEMBER; in LISTEN and JOINING with no
member recorded it is CONFLICT(MAP). -/
def Obligations.JoinFrameIsAppliedByState : Prop :=
  ∀ (dt : Nat) (s u : State) (x : Station) (b : JoinBody) (e : FrameEnd), s.Receiving → s.digest.isSome → x ≠ s.self →
    1 ≤ b.completing.lead → b.completing.lead ≤ 4 → e.frame = makeFrame .join x b.bytes →
    u = { s with now := s.now + dt, lc := s.lc.afterFrame } →
    (s.digest = some b.digest → e.otherSpoil = false →
      (s.mu.state = .member → hasStation s.mu.members x = false →
        exec (.joinFrame dt e) s =
          .next ({ u with
            mu := { u.mu with members := withStation u.mu.members x,
                              foreign := setMinus u.mu.foreign (oneStation x) },
            lp := u.lp.enqueue (EventRecord.joined x), free := u.free + 1 } : State).rankRetest) ∧
      (s.mu.state = .member → hasStation s.mu.members x = true →
        exec (.joinFrame dt e) s =
          .next (({ u with
            cu := { u.cu with
              record := u.cu.record.map (fun r =>
                { r with required := setMinus r.required (oneStation x), ready := setMinus r.ready (oneStation x) }) },
            lp := u.lp.enqueue (EventRecord.joined x), free := u.free + 1 } : State).completionCheck b.completing)) ∧
      ((s.mu.state = .listen ∨ s.mu.state = .joining) → hasStation s.mu.members x = false →
        exec (.joinFrame dt e) s =
          .next { u with mu := { u.mu with members := withStation u.mu.members x, memberRecorded := true } }) ∧
      ((s.mu.state = .listen ∨ s.mu.state = .joining) → hasStation s.mu.members x = true →
        exec (.joinFrame dt e) s =
          .next (({ u with
            mu := { u.mu with memberRecorded := true },
            cu := { u.cu with
              record := u.cu.record.map (fun r =>
                { r with required := setMinus r.required (oneStation x), ready := setMinus r.ready (oneStation x) }) } }
            : State).completionCheck b.completing))) ∧
    (s.digest ≠ some b.digest → (s.mu.state = .member ∨ (s.mu.state = .joining ∧ s.mu.memberRecorded = true)) →
      exec (.joinFrame dt e) s =
        .next { u with
          lp := { u.lp with counters := { u.lp.counters with spoilsSeen := saturate u.lp.counters.spoilsSeen 1 } } }) ∧
    (s.digest ≠ some b.digest →
      (s.mu.state = .joining ∧ s.mu.memberRecorded = false) ∨
        (s.mu.state = .listen ∧ s.mu.memberRecorded = false ∧ e.otherSpoil = false) →
      ∃ t, exec (.joinFrame dt e) s = .next t ∧ t.mu.state = .conflict ∧ t.mu.cause = .map)

/-- LEAVE_FRAME of another station x, read correctly and delivered (R44, R48, R57, R82, R95, R97, R150, R158, R165). At a
MEMBER: x leaves the table, the DROP set, R and Y, its entries leave the Outbound Queue and its runs the builder, each counted
in spans lost, its addressee record is fresh, LEFT(x) is raised, with one SPAN_LOST(GONE) when something was discarded, and the
beacon-loss test and the completion check are made. That the test comes before the check is the model's reading (assumption
20), and the count of two runs for x is assumption 36. With nothing held for x, the same with LEFT(x) alone. An unsynced MEMBER
that is then alone founds again: count 0, epoch 0 in BUILDING (R55). In LISTEN and JOINING: x leaves the table, R and Y, and the completion check is made. A LEAVE of a
station that is not in the table changes nothing. -/
def Obligations.LeaveFrameRemovesItsSender : Prop :=
  ∀ (dt : Nat) (s u : State) (x : Station) (b : LeaveBody) (take : Bool), s.Receiving → x ≠ s.self →
    1 ≤ b.completing.lead → b.completing.lead ≤ 4 →
    u = { s with now := s.now + dt, lc := s.lc.afterFrame } →
    (s.mu.state = .member → hasStation s.mu.members x = true → (∀ e ∈ s.lc.outbound, e.addressee ≠ x) →
      s.we.waitingSpans = [] → s.we.openRun = none →
      (s.mu.synced = true ∨ setMinus s.mu.members (oneStation x) ≠ oneStation s.self) →
      exec (.leaveFrame dt ⟨makeFrame .leave x b.bytes, take, false⟩) s =
        .next (((({ u with
          mu := { u.mu with members := setMinus u.mu.members (oneStation x) },
          lc := { u.lc with addressees := u.lc.addressees.set x.val { attempts := 0, expiry := none } x.isLt },
          cu := { u.cu with
            record := u.cu.record.map (fun r =>
              { r with required := setMinus r.required (oneStation x), ready := setMinus r.ready (oneStation x) }) },
          lp := u.lp.enqueue (EventRecord.left x), free := u.free + 1 } : State).dropLoses (oneStation x)).rankRetest
            ).completionCheck b.completing)) ∧
    (s.mu.state = .member → hasStation s.mu.members x = true →
      (s.mu.synced = true ∨ setMinus s.mu.members (oneStation x) ≠ oneStation s.self) →
      ∃ t, exec (.leaveFrame dt ⟨makeFrame .leave x b.bytes, take, false⟩) s = .next t ∧
        State.Reported ((u.bereft (oneStation x)).completionCheck b.completing) t (s.goneCounters (oneStation x))
          (EventRecord.left x :: s.goneRecords (oneStation x)) []) ∧
    (s.mu.state = .member → s.mu.synced = false → hasStation s.mu.members x = true →
      setMinus s.mu.members (oneStation x) = oneStation s.self →
      ∃ t, exec (.leaveFrame dt ⟨makeFrame .leave x b.bytes, take, false⟩) s = .next t ∧
        t.mu = { u.mu with members := oneStation u.self, synced := true, founder := true } ∧ t.tu.count = 0#32 ∧
        t.cu = { record := some { collecting := 0#16, required := oneStation u.self, ready := 0#16, last := none },
                 phase := .building, timer := 0 }) ∧
    ((s.mu.state = .listen ∨ s.mu.state = .joining) → hasStation s.mu.members x = true →
      exec (.leaveFrame dt ⟨makeFrame .leave x b.bytes, take, false⟩) s =
        .next (({ u with
          mu := { u.mu with members := setMinus u.mu.members (oneStation x) },
          cu := { u.cu with
            record := u.cu.record.map (fun r =>
              { r with required := setMinus r.required (oneStation x), ready := setMinus r.ready (oneStation x) }) } }
          : State).completionCheck b.completing)) ∧
    ((s.mu.state = .listen ∨ s.mu.state = .joining ∨ s.mu.state = .member) → hasStation s.mu.members x = false →
      exec (.leaveFrame dt ⟨makeFrame .leave x b.bytes, take, false⟩) s = .next u)

/-- The completion check (R97, R98, R100): with R ⊆ Y the collecting epoch c commits with flip frame stamp + lead, the next is
c + 1 with R the member table and Y empty, the DROP slot is withdrawn, the ready-wait timer is 0, and a phase other than NONE
becomes HELD when self is in the new R, else IDLE (R100 says so of WAITING and IDLE; of the others the model does, assumption
37); without it nothing happens. READY_FRAME of another station x, read
correctly and delivered (R93, R31): when its epoch is c and x is in R and not in Y, x enters Y and leaves the DROP set, and
the completion check is made; else nothing happens. -/
def Obligations.ReadyCollectsAndCommits : Prop :=
  (∀ (s : State) (r : Record) (k : Completing), s.cu.record = some r →
    (subsetOf r.required r.ready = true →
      s.completionCheck k = { s with
        cu := {
          record := some { collecting := r.collecting + 1, required := s.mu.members, ready := 0#16,
                           last := some { epoch := r.collecting, flipFrame := k.stamp + BitVec.ofNat 32 k.lead,
                                          flipped := false } },
          phase := if s.cu.phase = .absent then .absent
            else if hasStation s.mu.members s.self then .held else .idle,
          timer := 0 },
        lc := { s.lc with slots := { s.lc.slots with drop := none } } }) ∧
    (subsetOf r.required r.ready = false → s.completionCheck k = s)) ∧
  ∀ (dt : Nat) (s u : State) (x : Station) (b : ReadyBody) (take : Bool) (r : Record), s.Receiving → x ≠ s.self →
    (s.mu.state = .listen ∨ s.mu.state = .joining ∨ s.mu.state = .member) → s.cu.record = some r →
    1 ≤ b.completing.lead → b.completing.lead ≤ 4 →
    u = { s with now := s.now + dt, lc := s.lc.afterFrame } →
    ((b.epoch = r.collecting ∧ hasStation r.required x = true ∧ hasStation r.ready x = false) →
      exec (.readyFrame dt ⟨makeFrame .ready x b.bytes, take, false⟩) s =
        .next ((({ u with cu := { u.cu with record := some { r with ready := withStation r.ready x } } }
          : State).dropLoses (oneStation x)).completionCheck b.completing)) ∧
    (¬(b.epoch = r.collecting ∧ hasStation r.required x = true ∧ hasStation r.ready x = false) →
      exec (.readyFrame dt ⟨makeFrame .ready x b.bytes, take, false⟩) s = .next u)

/-- Stations leaving the DROP set (R31): an emptied set empties the slot, a set with stations left keeps its attempt count and
holdoff. DROP_FRAME of another station x, read correctly and delivered (R58, R61). At a MEMBER it names: EVICTED with
cause DROPPED, everything torn down, EVICTED raised. At a MEMBER it does not name, none of the named stations being in the
table: nothing but the completion check; with some in it: they leave the table, R and Y and the DROP set, what the Outbound
Queue and the builder hold for them is discarded and counted, their addressee records are fresh, the beacon-loss test is made
(before the completion check: assumption 20), and DROPPED is raised with one SPAN_LOST(GONE) for each station that had
something discarded (R44, R82, R150, R165; of two runs for one station: assumption 36). In LISTEN and JOINING: the named
stations leave the table, R and Y, and the completion check is made. -/
def Obligations.DropFrameEvictsTheNamed : Prop :=
  (∀ (s : State) (m : StationSet),
    (s.lc.slots.drop = none → s.dropLoses m = s) ∧
    ∀ d, s.lc.slots.drop = some d →
      s.dropLoses m = { s with lc := { s.lc with slots := { s.lc.slots with
        drop := if setMinus d.stations m = 0#16 then none
          else some { d with stations := setMinus d.stations m } } } }) ∧
  ∀ (dt : Nat) (s u : State) (x : Station) (b : DropBody) (take : Bool), s.Receiving → x ≠ s.self →
    1 ≤ b.completing.lead → b.completing.lead ≤ 4 → b.stations ≠ 0#16 →
    u = { s with now := s.now + dt, lc := s.lc.afterFrame } →
    (s.mu.state = .member → hasStation b.stations s.self = true →
      ∃ t, exec (.dropFrame dt ⟨makeFrame .drop x b.bytes, take, false⟩) s = .next t ∧
        t = { u with mu := t.mu, lc := t.lc, tu := t.tu, cu := t.cu, fs := t.fs, we := t.we, lp := t.lp,
                     handed := t.handed, free := t.free } ∧
        t.mu = { u.mu with state := .evicted, cause := .dropped, synced := false, founder := false, members := 0#16,
                           foreign := 0#16 } ∧
        t.lc = { u.lc with slots := Slots.empty, outbound := [], addressees := freshAddressees } ∧
        t.tu = { u.tu with lock := .free, source := none, silent := 0, held := none } ∧ t.cu = Commit.reset ∧
        t.fs = { u.fs with inbound := [], carry := [], operation := none, bankA := t.fs.bankA, bankB := t.fs.bankB } ∧
        t.we = { u.we with assembler := [], buffer := [], hold := false, openRun := none, waitingSpans := [],
                           waitingLocals := [], localRun := none, job := none } ∧
        (u.fs.operation = none → t.fs.bankA = u.fs.bankA ∧ t.fs.bankB = u.fs.bankB) ∧
        t.lp.counters.spansLost = u.lp.counters.spansLost ∧ t.lp.lastResult = u.lp.lastResult ∧
        (u.lp.events.length < 31 → EventRecord.evicted false ∈ t.lp.events)) ∧
    (s.mu.state = .member → hasStation b.stations s.self = false → b.stations &&& s.mu.members = 0#16 →
      exec (.dropFrame dt ⟨makeFrame .drop x b.bytes, take, false⟩) s = .next (u.completionCheck b.completing)) ∧
    (∀ gone : StationSet, s.mu.state = .member → hasStation b.stations s.self = false →
      (s.mu.synced = true ∨ setMinus s.mu.members gone ≠ oneStation s.self) →
      gone = b.stations &&& s.mu.members → gone ≠ 0#16 →
      ∃ t, exec (.dropFrame dt ⟨makeFrame .drop x b.bytes, take, false⟩) s = .next t ∧
        State.Reported ((u.bereft gone).completionCheck b.completing) t (s.goneCounters gone)
          (EventRecord.dropped gone b.epoch :: s.goneRecords gone) []) ∧
    ((s.mu.state = .listen ∨ s.mu.state = .joining) →
      exec (.dropFrame dt ⟨makeFrame .drop x b.bytes, take, false⟩) s =
        .next (({ u with
          mu := { u.mu with members := setMinus u.mu.members b.stations },
          cu := { u.cu with
            record := u.cu.record.map (fun r =>
              { r with required := setMinus r.required (b.stations &&& u.mu.members),
                       ready := setMinus r.ready (b.stations &&& u.mu.members) }) } } : State).completionCheck
            b.completing))

/-- SPAN_FRAME and FILL_FRAME to this station from another station x, read correctly, no SPOIL (R27, R131, R168, R169, R171).
From a station outside the table, or not in MEMBER, not taken. At a synced MEMBER with back-bank epoch b: an entry of b behind
none of b + 1, or of b + 1, enters the inbound queue while it holds fewer than 16; of b + 2, of b behind one of b + 1, or of
any other epoch, it is counted as stale; with 16 held an entry of b, b + 1 or b + 2 is not taken. At an unsynced MEMBER it is
counted as stale. To another station, delivered or not: nothing. Where a vertical start or the end of an operation has fallen
between the slots and the delivery, the frame is taken or not on what the slots saw, and a taken entry is placed on the
back-bank epoch as it stands at the delivery. -/
def Obligations.AddresseePlacesCountsOrLeavesAnEntry : Prop :=
  ∀ (dt : Nat) (s u : State) (x : Station) (b : PaintBody) (c : Instr) (take : Bool), Quiet s → s.lc.view = .inFrame →
    s.lc.flight = none → x ≠ s.self →
    ((c = .spanFrame dt ⟨makeFrame .span x b.bytes, take, false⟩ ∧ readSpan s.heldMap x b.bytes = some b) ∨
      (c = .fillFrame dt ⟨makeFrame .fill x b.bytes, take, false⟩ ∧ readFill s.heldMap x b.bytes = some b)) →
    u = { s with now := s.now + dt, lc := s.lc.afterFrame } →
    (∀ (v : SlotView) (r : Record) (taken : Prop), s.lc.slotView = some v → s.mu.state = .member →
      s.cu.record = some r → b.addressee = s.self.val → s.fs.inbound.length < 16 →
      (taken ↔ v.state = .member ∧ hasStation v.members x = true ∧
        (v.synced = true → ∀ e, v.backEpoch = some e → b.epoch = e ∨ b.epoch = e + 1 ∨ b.epoch = e + 2 →
          v.inbound < 16)) →
      (¬taken → exec c s = .next u) ∧
      (taken →
        ((b.epoch = r.backEpoch ∧ ∀ e ∈ s.fs.inbound, e.epoch ≠ r.backEpoch + 1) ∨ b.epoch = r.backEpoch + 1 →
          exec c s =
            .next { u with fs := { u.fs with inbound := u.fs.inbound ++
              [{ sender := x, epoch := b.epoch, paint := b.paint, rowsDone := 0, leaving := false }] } }) ∧
        (¬((b.epoch = r.backEpoch ∧ ∀ e ∈ s.fs.inbound, e.epoch ≠ r.backEpoch + 1) ∨ b.epoch = r.backEpoch + 1) →
          exec c s =
            .next { u with lp := { u.lp with counters := { u.lp.counters with
              staleEntries := saturate u.lp.counters.staleEntries 1 } } }))) ∧
    (b.addressee ≠ s.self.val → (s.mu.state = .listen ∨ s.mu.state = .joining ∨ s.mu.state = .member) →
      exec c s = .next u) ∧
    (s.lc.slotView = none →
      ((b.addressee ≠ s.self.val ∨ s.mu.state ≠ .member ∨ hasStation s.mu.members x = false) →
        (s.mu.state = .listen ∨ s.mu.state = .joining ∨ s.mu.state = .member) → exec c s = .next u) ∧
      (b.addressee = s.self.val → s.mu.state = .member → hasStation s.mu.members x = true →
        (∀ r : Record, s.mu.synced = true → s.cu.record = some r →
          ((s.fs.inbound.length < 16 ∧ ((b.epoch = r.backEpoch ∧ ∀ e ∈ s.fs.inbound, e.epoch ≠ r.backEpoch + 1) ∨
              b.epoch = r.backEpoch + 1)) →
            exec c s =
              .next { u with fs := { u.fs with inbound := u.fs.inbound ++
                [{ sender := x, epoch := b.epoch, paint := b.paint, rowsDone := 0, leaving := false }] } }) ∧
          (((s.fs.inbound.length < 16 ∧ ((b.epoch = r.backEpoch ∧ ∃ e ∈ s.fs.inbound, e.epoch = r.backEpoch + 1) ∨
                b.epoch = r.backEpoch + 2)) ∨
              (b.epoch ≠ r.backEpoch ∧ b.epoch ≠ r.backEpoch + 1 ∧ b.epoch ≠ r.backEpoch + 2)) →
            exec c s =
              .next { u with lp := { u.lp with counters := { u.lp.counters with
                staleEntries := saturate u.lp.counters.staleEntries 1 } } }) ∧
          ((16 ≤ s.fs.inbound.length ∧ (b.epoch = r.backEpoch ∨ b.epoch = r.backEpoch + 1 ∨ b.epoch = r.backEpoch + 2)) →
            exec c s = .next u)) ∧
        (s.mu.synced = false → s.cu.record = none →
          exec c s =
            .next { u with lp := { u.lp with counters := { u.lp.counters with
              staleEntries := saturate u.lp.counters.staleEntries 1 } } })))

/-- The outcome of this station's SPAN or FILL attempt (R40, R161 to R164): delivered, the addressee's head entry leaves and
its record is fresh; spoiled below 24 attempts, the attempt count goes up with no holdoff and a spoil is counted; not taken
below 24, it goes up and the holdoff starts; at 24 the entry is given up: it leaves, the record is fresh, spans lost goes up
and SPAN_LOST(RETRIES) is raised. -/
def Obligations.OutboundAttemptLeavesRetriesOrIsLost : Prop :=
  ∀ (dt : Nat) (s u : State) (a : Attempt) (e : OutEntry) (c : FrameEnd → Instr), s.Sending a → a.item = .outbound e →
    ((c = Instr.spanFrame dt ∧ a.frame.kind = FrameKind.span.code) ∨
      (c = Instr.fillFrame dt ∧ a.frame.kind = FrameKind.fill.code)) →
    u = { s with now := s.now + dt, lc := s.lc.afterFrame } →
    ∀ (n : Nat) (gone : Link) (again later : Retry), n = (s.lc.addressees[e.addressee.val]).attempts + 1 →
      again = { s.lc.addressees[e.addressee.val] with attempts := n } →
      later = { attempts := n, expiry := some (s.now + dt + holdoff n) } →
      gone = { u.lc with
        outbound := s.lc.outbound.eraseP (fun q => q.addressee = e.addressee),
        addressees := s.lc.addressees.set e.addressee.val { attempts := 0, expiry := none } e.addressee.isLt } →
      exec (c ⟨a.frame, true, false⟩) s = .next { u with lc := gone } ∧
      (n < 24 →
        (∀ take : Bool, exec (c ⟨a.frame, take, true⟩) s =
          .next { u with
            lp := { u.lp with counters := { u.lp.counters with
              spoilsSeen := saturate u.lp.counters.spoilsSeen 1 } },
            lc := { u.lc with addressees := s.lc.addressees.set e.addressee.val again e.addressee.isLt } }) ∧
        exec (c ⟨a.frame, false, false⟩) s =
          .next { u with
            lc := { u.lc with addressees := s.lc.addressees.set e.addressee.val later e.addressee.isLt } }) ∧
      (24 ≤ n →
        (∀ take : Bool, exec (c ⟨a.frame, take, true⟩) s =
          .next { u with
            lc := gone, free := u.free + 1,
            lp := ({ u.lp with counters := { u.lp.counters with
              spoilsSeen := saturate u.lp.counters.spoilsSeen 1, spansLost := saturate u.lp.counters.spansLost 1 } }
              : Port).enqueue (EventRecord.spanLost e.addressee e.epoch false) }) ∧
        exec (c ⟨a.frame, false, false⟩) s =
          .next { u with
            lc := gone, free := u.free + 1,
            lp := ({ u.lp with counters := { u.lp.counters with
              spansLost := saturate u.lp.counters.spansLost 1 } } : Port).enqueue
                (EventRecord.spanLost e.addressee e.epoch false) })

/-- Outcomes of this station's control attempts (R21, R32, R35 to R39, R51, R52, R55, R57 to R59, R83, R94). Spoiled, a DROP,
LEAVE, JOIN or READY is held off and a spoil counted; unheard below its limit it is held off; an unheard beacon leaves its slot,
a delivered one is adopted by its sender too. A READY(c) delivered, or unheard at a sole member, with self in R takes CLOSING to
WAITING with the timer at 0 before the completion check, also with self in Y already (assumption 35); it is ignored for another
epoch or with self not in R, and outside CLOSING with self in Y. A LEAVE delivered, unheard at a sole member or at its 24th attempt, makes the station
DETACHED. A JOIN delivered, or unheard at its 24th attempt, with no member recorded founds the wall; delivered with a member
recorded it makes the station a MEMBER, JOINED(self), IDLE when synced, and a rejoin when its entry read MEMBER; an unsynced
station then alone founds; unheard at its 24th attempt with a member recorded it returns to LISTEN. A DROP delivered, or unheard
at its 24th attempt, is applied: the named members are removed as by DROP_FRAME, and ALONE follows when applied alone it leaves
self the sole member (that this empties the slot of stations added since is assumption 24). A bit lost after the contention
field is CONFLICT(ID). The counts of two runs for one station rest on assumption 36, the stale ones of an adoption on 18. -/
def Obligations.OwnControlAttemptsAreSettled : Prop :=
  ∀ (dt : Nat) (s u : State) (a : Attempt), s.Sending a →
    u = { s with now := s.now + dt, lc := s.lc.afterFrame } →
    (∀ (slot : ControlSlot) (r later : Retry) (c : FrameEnd → Instr), s.lc.slots.retry slot = some r →
      later = { attempts := min 255 (r.attempts + 1), expiry := some (s.now + dt + holdoff (min 255 (r.attempts + 1))) } →
      ((slot = .drop ∧ a.item = .drop ∧ a.frame.kind = FrameKind.drop.code ∧ c = Instr.dropFrame dt) ∨
        (slot = .leave ∧ a.item = .leave ∧ a.frame.kind = FrameKind.leave.code ∧ c = Instr.leaveFrame dt) ∨
        (slot = .join ∧ a.item = .join ∧ a.frame.kind = FrameKind.join.code ∧ c = Instr.joinFrame dt) ∨
        (slot = .ready ∧ a.item = .ready ∧ a.frame.kind = FrameKind.ready.code ∧ c = Instr.readyFrame dt)) →
      (∀ take : Bool, exec (c ⟨a.frame, take, true⟩) s =
        .next { u with
          lp := { u.lp with counters := { u.lp.counters with spoilsSeen := saturate u.lp.counters.spoilsSeen 1 } },
          lc := { u.lc with slots := s.lc.slots.setRetry slot later } }) ∧
      ((slot = .ready ∨ r.attempts < 23) → ((slot = .ready ∨ slot = .leave) → s.mu.members ≠ oneStation s.self) →
        exec (c ⟨a.frame, false, false⟩) s = .next { u with lc := { u.lc with slots := s.lc.slots.setRetry slot later } })) ∧
    (a.item = .beacon → a.frame.kind = FrameKind.beacon.code →
      exec (.beacon dt ⟨a.frame, false, false⟩) s =
        .next { u with lc := { u.lc with slots := { s.lc.slots with beacon := false } } } ∧
      ∀ (b : BeaconBody) (c : Configuration) (g : Generator) (p : Nat) (v : State), readBeacon s.self a.frame.body = some b →
        s.config = some c → s.tu.generator = some g → s.tu.startPhase = some p → s.mu.state = .member →
        hasStation s.mu.members s.self = true → b.digest = c.map.digest → hasStation b.members s.self = true →
        v = { u with lc := { u.lc with slots := { s.lc.slots with beacon := false } } } →
        ∃ t, exec (.beacon dt ⟨a.frame, true, false⟩) s = .next t ∧
          (v.afterAdoption s.self b c g p).Reported t (v.adoptionCounters b) (v.adoptionRecords s.self b c p) [] ∧
          (b.launchDelay = p → 0 < c.lineTime → 0 < c.blank → t.tu.lock = .locked ∧
            t.tu.count = b.count + BitVec.ofNat 32 s.tu.startsSince)) ∧
    (∀ (r : Record) (take : Bool), a.item = .ready → a.frame.kind = FrameKind.ready.code → s.cu.record = some r →
      (take = true ∨ s.mu.members = oneStation s.self) →
      (ownReadyBody a.frame).epoch = r.collecting → hasStation r.required s.self = true →
      hasStation r.ready s.self = false →
      exec (.readyFrame dt ⟨a.frame, take, false⟩) s =
        .next ((({ u with
          lc := { u.lc with slots := { s.lc.slots with ready := none } },
          cu := { record := some { r with ready := withStation r.ready s.self },
                  phase := if s.cu.phase = .closing then .waiting else s.cu.phase,
                  timer := if s.cu.phase = .closing then 0 else s.cu.timer } } : State).dropLoses
            (oneStation s.self)).completionCheck (completingOf a.frame.body))) ∧
    (∀ (r : Record) (take : Bool) (v : State), a.item = .ready → a.frame.kind = FrameKind.ready.code →
      s.cu.record = some r → (take = true ∨ s.mu.members = oneStation s.self) →
      v = { u with lc := { u.lc with slots := { s.lc.slots with ready := none } } } →
      ((ownReadyBody a.frame).epoch = r.collecting → hasStation r.required s.self = true →
        hasStation r.ready s.self = true → s.cu.phase = .closing →
        exec (.readyFrame dt ⟨a.frame, take, false⟩) s =
          .next (({ v with cu := { s.cu with phase := .waiting, timer := 0 } } : State).completionCheck
            (completingOf a.frame.body))) ∧
      (((ownReadyBody a.frame).epoch ≠ r.collecting ∨ hasStation r.required s.self = false ∨
          (hasStation r.ready s.self = true ∧ s.cu.phase ≠ .closing)) →
        exec (.readyFrame dt ⟨a.frame, take, false⟩) s = .next v)) ∧
    (a.item = .leave → a.frame.kind = FrameKind.leave.code → ∀ r : Retry, s.lc.slots.leave = some r →
      ∀ take : Bool, (take = true ∨ s.mu.members = oneStation s.self ∨ 23 ≤ r.attempts) →
      ∃ t, exec (.leaveFrame dt ⟨a.frame, take, false⟩) s = .next t ∧ t.mu.state = .detached ∧ t.mu.synced = false ∧
        t.mu.members = 0#16 ∧ t.cu = Commit.reset ∧ t.lc.slots = Slots.empty ∧ t.lc.outbound = [] ∧
        t.fs.inbound = [] ∧ t.config = s.config) ∧
    (a.item = .join → a.frame.kind = FrameKind.join.code → ∀ (take : Bool) (v : State),
      (take = true ∨ ∃ r : Retry, s.lc.slots.join = some r ∧ 23 ≤ r.attempts) →
      v = { u with lc := { u.lc with slots := { s.lc.slots with join := none } } } →
      (s.mu.memberRecorded = false →
        exec (.joinFrame dt ⟨a.frame, take, false⟩) s =
          .next { v with
            mu := { s.mu with state := .member, synced := true, founder := true, members := oneStation s.self },
            tu := { s.tu with count := 0#32, silent := 0 },
            cu := { record := some { collecting := 0#16, required := oneStation s.self, ready := 0#16, last := none },
                    phase := .building, timer := 0 },
            lp := u.lp.enqueue (EventRecord.only .founded), free := u.free + 1 }) ∧
      (s.mu.memberRecorded = true → take = false →
        exec (.joinFrame dt ⟨a.frame, take, false⟩) s =
          .next { v with
            mu := Membership.reset .listen,
            lc := { v.lc with slots := Slots.empty, outbound := [], addressees := freshAddressees },
            tu := { s.tu with source := none, silent := 0 }, cu := Commit.reset,
            fs := { s.fs with dirty := [], carry := [], inbound := [], showState := .background,
                              clear := some { begun := s.now + dt, row := 0 } } }) ∧
      (s.mu.memberRecorded = true → take = true → ∀ w : State,
        w = { v with
          mu := { s.mu with state := .member, members := withStation s.mu.members s.self },
          cu := { s.cu with phase := if s.mu.synced then .idle else .absent } } →
        (hasStation s.mu.members s.self = false →
          (s.mu.synced = true ∨ withStation s.mu.members s.self ≠ oneStation s.self) →
          exec (.joinFrame dt ⟨a.frame, take, false⟩) s =
            .next ({ w with lp := w.lp.enqueue (EventRecord.joined s.self), free := w.free + 1 } : State).rankRetest) ∧
        (hasStation s.mu.members s.self = true →
          (s.mu.synced = true ∨ withStation s.mu.members s.self ≠ oneStation s.self) →
          exec (.joinFrame dt ⟨a.frame, take, false⟩) s =
            .next (({ w with
              cu := { w.cu with record := w.cu.record.map (fun q =>
                { q with required := setMinus q.required (oneStation s.self),
                         ready := setMinus q.ready (oneStation s.self) }) },
              lp := w.lp.enqueue (EventRecord.joined s.self), free := w.free + 1 } : State).completionCheck
                (completingOf a.frame.body))) ∧
        (s.mu.synced = false → withStation s.mu.members s.self = oneStation s.self →
          ∃ t, exec (.joinFrame dt ⟨a.frame, take, false⟩) s = .next t ∧ t.tu.count = 0#32 ∧
            t.mu = { s.mu with state := .member, synced := true, founder := true, members := oneStation s.self } ∧
            t.cu = { record := some { collecting := 0#16, required := oneStation s.self, ready := 0#16, last := none },
                     phase := .building, timer := 0 }))) ∧
    (a.item = .drop → a.frame.kind = FrameKind.drop.code → ∀ (b : DropBody) (gone : StationSet) (take : Bool)
        (v : State), b = ownDropBody a.frame → s.mu.state = .member → s.mu.synced = true →
      hasStation b.stations s.self = false → gone = b.stations &&& s.mu.members →
      (take = true ∨ ∃ r : DropSlot, s.lc.slots.drop = some r ∧ 23 ≤ r.retry.attempts) →
      v = (if take then u.dropLoses b.stations else { u with lc := { u.lc with slots := { s.lc.slots with drop := none } } }) →
      (gone ≠ 0#16 →
        ∃ t, exec (.dropFrame dt ⟨a.frame, take, false⟩) s = .next t ∧
          State.Reported ((v.bereft gone).completionCheck b.completing) t (s.goneCounters gone)
            (EventRecord.dropped gone b.epoch :: s.goneRecords gone)
            (if take = false ∧ setMinus s.mu.members gone = oneStation s.self then [EventRecord.only .alone] else [])) ∧
      (gone = 0#16 → (take = true ∨ s.mu.members ≠ oneStation s.self) →
        exec (.dropFrame dt ⟨a.frame, take, false⟩) s = .next (v.completionCheck b.completing)) ∧
      (gone = 0#16 → take = false → s.mu.members = oneStation s.self →
        ∃ t, exec (.dropFrame dt ⟨a.frame, take, false⟩) s = .next t ∧
          State.Reported (v.completionCheck b.completing) t s.lp.counters [] [EventRecord.only .alone])) ∧
    ∀ (e : FrameEnd) (n : Nat), firstDifference 0 a.frame.bits e.frame.bits = some (n, true) → 6 ≤ n →
      ∀ c ∈ [Instr.beacon dt e, .joinFrame dt e, .leaveFrame dt e, .readyFrame dt e, .dropFrame dt e, .spanFrame dt e,
          .fillFrame dt e],
        ∃ t, exec c s = .next t ∧ t.mu.state = .conflict ∧ t.mu.cause = .id ∧ t.lc.slots = Slots.empty ∧
          t.lc.outbound = [] ∧ t.lc.view = .gap

/-! ## The wall's beacon -/

/-- BEACON of another station x, delivered with the held digest to a station in LISTEN or JOINING that holds no record (R46,
R74 to R80, R110): it takes member set, collecting epoch, R, Y and, as a pending flip, the last commit; the beacon is adopted
and a member recorded, the synced flag set, the phase stays NONE; the count becomes the beacon's plus the frame offset plus
the own vertical starts since the start field; the source is x, the silent count 0, and lock state and correction follow the
phase error. The inbound queue being empty, the Frame Store keeps everything. -/
def Obligations.NewcomerAdoptsTheBeacon : Prop :=
  ∀ (dt : Nat) (s : State) (x : Station) (b : BeaconBody) (take : Bool) (c : Configuration) (g : Generator) (p : Nat)
    (q : Int × Int) (correction : Int), s.Receiving → x ≠ s.self →
    (s.mu.state = .listen ∨ s.mu.state = .joining) → s.cu.record = none → s.cu.phase = .absent → s.fs.inbound = [] →
    s.config = some c → s.tu.generator = some g → s.tu.startPhase = some p → readBeacon x b.bytes = some b →
    b.digest = c.map.digest →
    q = phaseError ((p : Int) - b.launchDelay) ((c.blank + c.map.ownTile.height) * c.lineTime) →
    correction = (lockAndCorrection q.1 c.lineTime).2 →
    ∃ t, exec (.beacon dt ⟨makeFrame .beacon x b.bytes, take, false⟩) s = .next t ∧
      t = { s with now := s.now + dt, mu := t.mu, lc := t.lc, tu := t.tu, cu := t.cu, lp := t.lp, free := t.free } ∧
      t.mu = { s.mu with members := b.members, synced := true, beaconAdopted := true, memberRecorded := true } ∧
      t.cu = { record := some { collecting := b.collecting, required := b.required, ready := b.ready,
                                last := b.last.map (fun l => { epoch := l.1, flipFrame := l.2, flipped := false }) },
               phase := .absent, timer := 0 } ∧
      t.tu = { s.tu with
        count := b.count + BitVec.ofInt 32 q.2 + BitVec.ofNat 32 s.tu.startsSince, silent := 0, source := some x,
        lock := (lockAndCorrection q.1 c.lineTime).1, held := t.tu.held, generator := t.tu.generator } ∧
      (∀ since, g.activeSince = some since → t.tu.held = some correction ∧ t.tu.generator = some g) ∧
      (g.activeSince = none →
        t.tu.held = s.tu.held ∧
        t.tu.generator = some { g with
          correction := some correction,
          activeSince :=
            if ({ g with correction := some correction } : Generator).blankEnd c ≤ s.now + dt then some (s.now + dt)
            else none }) ∧
      t.lc = { s.lc.afterFrame with slots := { s.lc.slots with
        beacon := if x < c.map.self then false else s.lc.slots.beacon, drop := none, ready := none } }

/-- BEACON of another station x, read correctly and delivered to a MEMBER: the tests of R54 in their order. A sender outside
the table is reported once as FOREIGN, with nothing adopted; an unequal digest is CONFLICT(MAP); a member set without self is
eviction, cause BEACON; otherwise the beacon is adopted: count, lock state, correction, source and silent count (R74 to R80),
a pending beacon withdrawn for a lower sender (R72), member table and what was held for stations that left it (R54, R150, R165),
record by R110 and R111, phase, timer and slots of R31 and R112, inbound entries that are neither b nor b + 1 removed and counted
(R132); LOCK and REFERENCE are raised where they change, SPAN_LOST(GONE) for what was discarded, and SLIP by a synced member
whose count, table or record changed (R113). Two things here are the model's reading: two runs of the builder for one removed
station count as two spans lost and are told with the waiting run's epoch (assumption 36), and an inbound head with an operation
in progress is counted stale at the adoption and stays, marked, until that operation ends (assumption 18). In LISTEN and
JOINING an unequal digest is CONFLICT(MAP) (R14). In EVICTED, DETACHED and CONFLICT the sender is reported as FOREIGN alone (R29,
R65). -/
def Obligations.BeaconIsTestedThenAdopted : Prop :=
  ∀ (dt : Nat) (s u : State) (x : Station) (b : BeaconBody) (c : Configuration) (e : FrameEnd), s.Receiving →
    x ≠ s.self → s.config = some c → readBeacon x b.bytes = some b →
    e = ⟨makeFrame .beacon x b.bytes, true, false⟩ → u = { s with now := s.now + dt, lc := s.lc.afterFrame } →
    (((s.mu.state = .member ∧ hasStation s.mu.members x = false) ∨ s.mu.state = .evicted ∨ s.mu.state = .detached ∨
        s.mu.state = .conflict) →
      (hasStation s.mu.foreign x = true → exec (.beacon dt e) s = .next u) ∧
      (hasStation s.mu.foreign x = false →
        exec (.beacon dt e) s =
          .next { u with mu := { u.mu with foreign := withStation u.mu.foreign x },
                         lp := u.lp.enqueue (EventRecord.foreign x), free := u.free + 1 })) ∧
    (((s.mu.state = .member ∧ hasStation s.mu.members x = true) ∨ s.mu.state = .listen ∨ s.mu.state = .joining) →
      b.digest ≠ c.map.digest →
      ∃ t, exec (.beacon dt e) s = .next t ∧ t.mu.state = .conflict ∧ t.mu.cause = .map) ∧
    (s.mu.state = .member → hasStation s.mu.members x = true → b.digest = c.map.digest →
      (hasStation b.members c.map.self = false →
        ∃ t, exec (.beacon dt e) s = .next t ∧ t.mu.state = .evicted ∧ t.mu.cause = .beacon ∧ t.mu.members = 0#16 ∧
          t.cu = Commit.reset) ∧
      (hasStation b.members c.map.self = true →
        ∀ (g : Generator) (p : Nat), s.tu.generator = some g → s.tu.startPhase = some p →
        ∃ t, exec (.beacon dt e) s = .next t ∧
          (u.afterAdoption x b c g p).Reported t (u.adoptionCounters b) (u.adoptionRecords x b c p) []))

/-- The record and the phase after an adoption (R110 to R112). With no record held the carried one is taken, its last commit
pending; with the same c, R and Y are the carried ones and the last commit is kept with its mark and the carried flip frame
where both name one epoch, kept where none is carried, else the carried one as passed; with another c everything is taken,
the carried last commit pending. The phase follows from the pending flip, R, Y and what the phase was. -/
def Obligations.AdoptedRecordAndPhase : Prop :=
  (∀ (b : BeaconBody) (held : Option Record),
    ((∀ r, held = some r → r.collecting ≠ b.collecting) →
      adoptedRecord held b =
        { collecting := b.collecting, required := b.required, ready := b.ready,
          last := b.last.map (fun l => { epoch := l.1, flipFrame := l.2, flipped := false }) }) ∧
    ∀ r, held = some r → r.collecting = b.collecting →
      ∃ last, adoptedRecord held b =
          { collecting := r.collecting, required := b.required, ready := b.ready, last := last } ∧
        (b.last = none → last = r.last) ∧
        (∀ l h, b.last = some l → r.last = some h → h.epoch = l.1 →
          last = some { epoch := h.epoch, flipFrame := l.2, flipped := h.flipped }) ∧
        (∀ l, b.last = some l → (∀ h, r.last = some h → h.epoch ≠ l.1) →
          last = some { epoch := l.1, flipFrame := l.2, flipped := true })) ∧
  ∀ (r : Record) (self : Station) (kept : Bool) (was : Phase),
    adoptedPhase r self kept was =
      if r.pendingFlip.isSome ∧ hasStation r.required self then .held
      else if r.pendingFlip.isSome then .idle
      else if hasStation r.ready self then .waiting
      else if hasStation r.required self ∧ kept ∧ (was = .closing ∨ was = .waiting) then .closing
      else if hasStation r.required self then .building
      else .idle

/-! ## The Frame Store -/

/-- BANK_CLEAR_ROW (R121), due one line time after the row before: row r of both banks takes the background colour in all 512
columns, every other pixel of both banks keeps its value, and the next row is r + 1; before it is due only time passes.
BANK_CLEAR_END: after row 319 the bank clear is over. -/
def Obligations.BankClearWritesOneRowOfBothBanks : Prop :=
  (∀ (dt : Nat) (s : State) (k : BankClear) (c : Configuration), Quiet s → s.fs.clear = some k → s.config = some c →
    k.row < 320 →
    (k.begun + (k.row + 1) * c.lineTime ≤ s.now + dt →
      ∃ t, exec (.bankClearRow dt) s = .next t ∧
        t = { s with now := s.now + dt,
                     fs := { s.fs with bankA := t.fs.bankA, bankB := t.fs.bankB,
                                       clear := some { begun := k.begun, row := k.row + 1 } } } ∧
        ∀ (bank : Bank) (row col : Nat), row < 320 → col < 512 →
          readPixel (t.fs.bank bank) row col =
            if row = k.row then c.background else readPixel (s.fs.bank bank) row col) ∧
    (s.now + dt < k.begun + (k.row + 1) * c.lineTime →
      exec (.bankClearRow dt) s = .next { s with now := s.now + dt })) ∧
  ∀ (s : State) (k : BankClear), s.Unraised → s.fs.clear = some k →
    (320 ≤ k.row → exec .bankClearEnd s = .next { s with fs := { s.fs with clear := none } }) ∧
    (k.row < 320 → exec .bankClearEnd s = .next s)

/-- BANK_WRITER_GRANT (R124, R125, R127): to the first requester that holds a request, in the cycle stream, local fill,
inbound, carry from the one after the last served; so the last served is granted again only when no other holds one. The
operation begins in the back bank; a write to a row still to be carried begins with its carry, any other write joins the
dirty row set at once. With an operation in progress, or no request, nothing is granted. The stream requester holds a request
while a local run is presented (R147), local fill while its job runs (R153), carry while the carry list is not empty (R129),
and inbound while the head of the inbound queue is of the back-bank epoch; a held head, of the epoch after it, presents nothing
(R132; nor does a head of another epoch: assumption 19). -/
def Obligations.BankWriterGrantsInRotation : Prop :=
  (∀ s : State,
    (s.holdsRequest .stream = true ↔ s.we.localRun ≠ none) ∧ (s.holdsRequest .localFill = true ↔ s.we.job ≠ none) ∧
    (s.holdsRequest .carry = true ↔ s.fs.carry ≠ []) ∧
    (s.holdsRequest .inbound = true ↔
      ∃ h rest r, s.fs.inbound = h :: rest ∧ s.cu.record = some r ∧ h.leaving = false ∧ h.epoch = r.backEpoch) ∧
    ∀ h rest r, s.fs.inbound = h :: rest → s.cu.record = some r → h.epoch = r.backEpoch + 1 →
      s.holdsRequest .inbound = false) ∧
  (∀ s : State, s.Unraised → (s.fs.operation.isSome ∨ ∀ q, s.holdsRequest q = false) →
    exec .bankWriterGrant s = .next s) ∧
  ∀ (s : State) (q : Requester), s.Unraised → s.fs.operation = none → s.nextRequester = some q →
    s.holdsRequest q = true ∧ (q = s.fs.lastServed → ∀ p, p ≠ q → s.holdsRequest p = false) ∧
    (∀ cycle, cycle = [Requester.stream, .localFill, .inbound, .carry, .stream, .localFill, .inbound, .carry] →
      ∃ before after, cycle.dropWhile (· ≠ s.fs.lastServed) = s.fs.lastServed :: before ++ q :: after ∧
        ∀ p ∈ before, s.holdsRequest p = false) ∧
    ∃ epoch row start pixels, s.requested q = some (epoch, row, start, pixels) ∧
      exec .bankWriterGrant s =
        .next { s with fs := { s.fs with
          lastServed := q,
          operation := some { requester := q, epoch := epoch, row := row, start := start, pixels := pixels,
                              bank := s.fs.front.other, onDemand := decide (q ≠ .carry ∧ row ∈ s.fs.carry) },
          dirty := if q = .carry ∨ row ∈ s.fs.carry then s.fs.dirty else insertRow row s.fs.dirty } }

/-- BANK_WRITER_OP_END (R118, R123, R125, R129, R132, R133, R147, R153): the operation's pixels, inside the bank, are read
back from the bank it wrote, every other pixel of both banks keeps its value. A carry on demand writes the carried row, which
leaves the carry list, and the write begins in the back bank, its row dirty; any other operation ends and its requester is
told: the local run has gone and the first that waits takes its place, the fill job goes to its next row or ends, the inbound head
to its next row or out, the carried row leaves the list. In the verdict slots of a frame the slots keep the view of the state
before it (R131, R168). -/
def Obligations.BankWriterWritesAndTellsTheRequester : Prop :=
  ∀ (dt : Nat) (inVerdict : Bool) (s : State) (o : Operation) (start : Nat) (pixels : List Pixel) (l : Link), Quiet s →
    s.fs.operation = some o → (start, pixels) = s.operationWrite o → o.row < 320 → start + pixels.length ≤ 512 →
    l = { s.lc with
      slotView := if inVerdict = true ∧ s.lc.view = .inFrame ∧ s.lc.slotView = none then some s.slotViewNow
        else s.lc.slotView } →
    (o.requester = .carry ∨ o.onDemand = true → start = 0 ∧ pixels = s.carriedPixels o.row) ∧
    (o.requester ≠ .carry → o.onDemand = false → start = o.start ∧ pixels = o.pixels) ∧
    ∃ t, exec (.bankWriterOpEnd dt inVerdict) s = .next t ∧
      t = { s with now := s.now + dt, fs := t.fs, we := t.we, lc := t.lc } ∧
      (∀ (bank : Bank) (row col : Nat), row < 320 → col < 512 →
        readPixel (t.fs.bank bank) row col =
          if bank = o.bank ∧ row = o.row ∧ start ≤ col ∧ col < start + pixels.length then pixels.getD (col - start) 0#24
          else readPixel (s.fs.bank bank) row col) ∧
      t.fs = { s.fs with bankA := t.fs.bankA, bankB := t.fs.bankB, operation := t.fs.operation, dirty := t.fs.dirty,
                         carry := t.fs.carry, inbound := t.fs.inbound } ∧
      (o.onDemand = true →
        t.we = s.we ∧ t.lc = l ∧ t.fs.operation = some { o with onDemand := false, bank := s.fs.front.other } ∧
        t.fs.carry = s.fs.carry.erase o.row ∧ t.fs.inbound = s.fs.inbound ∧
        t.fs.dirty = if o.requester = .carry then s.fs.dirty else insertRow o.row s.fs.dirty) ∧
      (o.onDemand = false →
        t.fs.operation = none ∧ t.fs.dirty = s.fs.dirty ∧
        t.fs.carry = (if o.requester = .carry then s.fs.carry.erase o.row else s.fs.carry) ∧
        (o.requester = .carry → t.we = s.we ∧ t.lc = l ∧ t.fs.inbound = s.fs.inbound) ∧
        (o.requester = .localFill →
          t.we = { s.we with job := s.we.job.bind (fun j =>
            if j.nextRow < j.rect.y1 then some { j with nextRow := j.nextRow + 1 } else none) } ∧
          t.lc = l ∧ t.fs.inbound = s.fs.inbound) ∧
        (o.requester = .stream → t.lc = l ∧ t.fs.inbound = s.fs.inbound ∧
          (s.we.waitingLocals = [] → t.we = { s.we with localRun := none }) ∧
          ∀ r more, s.we.waitingLocals = r :: more → t.we = { s.we with localRun := some r, waitingLocals := more }) ∧
        (o.requester = .inbound → t.we = s.we ∧ t.lc = l ∧ ∀ h rest, s.fs.inbound = h :: rest →
          t.fs.inbound = if h.leaving = false ∧ h.rowsDone + 1 < h.paint.rows
            then { h with rowsDone := h.rowsDone + 1 } :: rest else rest))

/-! ## What holds of every state -/

/-- Every step keeps the memories canonical, the row sets ascending and every queue, buffer and saturating count within its
bound (R46, R80, R101, R127, R128, R131, R142, R143, R156, R187). -/
def Obligations.EveryStepKeepsMemoriesRowsAndBounds : Prop :=
  ∀ s t : State, step s = .next t →
    (s.fs.Canonical → t.fs.Canonical) ∧ (s.fs.RowsAscending → t.fs.RowsAscending) ∧ (s.WithinCapacity → t.WithinCapacity)

/-- Every step keeps station state, member table, collection record, phase, own frame, loader and configuration in agreement
(`State.Standing`; R15, R23, R42, R43, R87, R105, R207 and 05, section 5.1). -/
def Obligations.EveryStepKeepsStateTableAndRecordInAgreement : Prop :=
  ∀ s t : State, step s = .next t → s.Standing → t.Standing

/-- The state after power-on has every invariant that a step keeps, and nothing is due in it. -/
def Obligations.ResetMeetsEveryInvariant : Prop :=
  State.reset.fs.Canonical ∧ State.reset.fs.RowsAscending ∧ State.reset.WithinCapacity ∧ State.reset.Standing ∧
    Quiet State.reset

/-- A frame on the wire (R17, R22): 53 + 9L bit periods for a body of L bytes, 64 + 9L with the end gap; a driven start field; a
driven mark at every ninth period from class to CRC; final mark, turnaround, TAKE slot, SPOIL slot and end mark last; what a
station sends ends with the final mark. A receiver reads the fields back between the marks, and none of a frame with a mark
released. The bodies of link frames are read back as they were built (11_formats.md, 11.1; R208), every field at every value it
allows: of the five control kinds, and of a SPAN or FILL whose paint lies in its addressee's tile. -/
def Obligations.LinkBodiesReadBackAsBuilt : Prop :=
  (∀ (f : WireFrame) (take spoil : Bool) (wire : List Bool), wire = f.line take spoil →
    wire.length = 53 + 9 * f.body.length ∧ (wire ++ endGap).length = 64 + 9 * f.body.length ∧
    wire[0]? = some driven ∧ (∀ i < f.body.length + 5, wire[9 * i + 9]? = some driven) ∧
    wire.drop (48 + 9 * f.body.length) = [driven, released, !take, !spoil, driven] ∧
    f.sent = wire.take (49 + 9 * f.body.length) ∧
    unmarked (withMarks f.bits) = some f.bits ∧
    ∀ i < f.body.length + 5, unmarked ((withMarks f.bits).set (9 * i + 8) released) = none) ∧
  (∀ (x : Station) (b : BeaconBody), b.launchDelay ≤ 1165999 → hasStation b.members x = true →
    subsetOf b.required b.members = true → subsetOf b.ready b.required = true → readBeacon x b.bytes = some b) ∧
  (∀ b : JoinBody, 1 ≤ b.completing.lead → b.completing.lead ≤ 4 → readJoin b.bytes = some b) ∧
  (∀ b : LeaveBody, 1 ≤ b.completing.lead → b.completing.lead ≤ 4 → readLeave b.bytes = some b) ∧
  (∀ b : ReadyBody, 1 ≤ b.completing.lead → b.completing.lead ≤ 4 → readReady b.bytes = some b) ∧
  (∀ b : DropBody, 1 ≤ b.completing.lead → b.completing.lead ≤ 4 → b.stations ≠ 0#16 → readDrop b.bytes = some b) ∧
  ∀ (map : TileMap) (x y : Station) (t : Tile) (e : Epoch), y ≠ x → map.tileFor y = some t →
    (∀ (row start : Nat) (pixels : List Pixel), 1 ≤ pixels.length → pixels.length ≤ 64 → row < t.height →
      start + pixels.length ≤ t.width → t.height ≤ 320 → t.width ≤ 512 →
      readSpan (some map) x (PaintBody.bytes { addressee := y.val, epoch := e, paint := .span row start pixels }) =
        some { addressee := y.val, epoch := e, paint := .span row start pixels }) ∧
    ∀ (r : Rect) (colour : Pixel), r.x0 ≤ r.x1 → r.x1 < t.width → r.y0 ≤ r.y1 → r.y1 < t.height → t.height ≤ 320 →
      t.width ≤ 512 →
      readFill (some map) x (PaintBody.bytes { addressee := y.val, epoch := e, paint := .fill r colour }) =
        some { addressee := y.val, epoch := e, paint := .fill r colour }
end

