-- ==== Sys2Proof/Laws/State.lean ====
section
/-! SUPPORT. One lemma for each field of the state under each of its updates. -/

namespace Sys2Proof.Machine

/-! ## `setNow` -/

section

variable (s : State) (v : Nat)

@[simp] theorem State.setNow_now : (s.setNow v).now = v := (rfl)
@[simp] theorem State.setNow_config : (s.setNow v).config = s.config := (rfl)
@[simp] theorem State.setNow_mu : (s.setNow v).mu = s.mu := (rfl)
@[simp] theorem State.setNow_lc : (s.setNow v).lc = s.lc := (rfl)
@[simp] theorem State.setNow_tu : (s.setNow v).tu = s.tu := (rfl)
@[simp] theorem State.setNow_cu : (s.setNow v).cu = s.cu := (rfl)
@[simp] theorem State.setNow_fs : (s.setNow v).fs = s.fs := (rfl)
@[simp] theorem State.setNow_we : (s.setNow v).we = s.we := (rfl)
@[simp] theorem State.setNow_lp : (s.setNow v).lp = s.lp := (rfl)
@[simp] theorem State.setNow_sl : (s.setNow v).sl = s.sl := (rfl)
@[simp] theorem State.setNow_handed : (s.setNow v).handed = s.handed := (rfl)
@[simp] theorem State.setNow_free : (s.setNow v).free = s.free := (rfl)
@[simp] theorem State.setNow_pending : (s.setNow v).pending = s.pending := (rfl)

end

/-! ## `setConfig` -/

section

variable (s : State) (v : Option Configuration)

@[simp] theorem State.setConfig_now : (s.setConfig v).now = s.now := (rfl)
@[simp] theorem State.setConfig_config : (s.setConfig v).config = v := (rfl)
@[simp] theorem State.setConfig_mu : (s.setConfig v).mu = s.mu := (rfl)
@[simp] theorem State.setConfig_lc : (s.setConfig v).lc = s.lc := (rfl)
@[simp] theorem State.setConfig_tu : (s.setConfig v).tu = s.tu := (rfl)
@[simp] theorem State.setConfig_cu : (s.setConfig v).cu = s.cu := (rfl)
@[simp] theorem State.setConfig_fs : (s.setConfig v).fs = s.fs := (rfl)
@[simp] theorem State.setConfig_we : (s.setConfig v).we = s.we := (rfl)
@[simp] theorem State.setConfig_lp : (s.setConfig v).lp = s.lp := (rfl)
@[simp] theorem State.setConfig_sl : (s.setConfig v).sl = s.sl := (rfl)
@[simp] theorem State.setConfig_handed : (s.setConfig v).handed = s.handed := (rfl)
@[simp] theorem State.setConfig_free : (s.setConfig v).free = s.free := (rfl)
@[simp] theorem State.setConfig_pending : (s.setConfig v).pending = s.pending := (rfl)

end

/-! ## `setMu` -/

section

variable (s : State) (v : Membership)

@[simp] theorem State.setMu_now : (s.setMu v).now = s.now := (rfl)
@[simp] theorem State.setMu_config : (s.setMu v).config = s.config := (rfl)
@[simp] theorem State.setMu_mu : (s.setMu v).mu = v := (rfl)
@[simp] theorem State.setMu_lc : (s.setMu v).lc = s.lc := (rfl)
@[simp] theorem State.setMu_tu : (s.setMu v).tu = s.tu := (rfl)
@[simp] theorem State.setMu_cu : (s.setMu v).cu = s.cu := (rfl)
@[simp] theorem State.setMu_fs : (s.setMu v).fs = s.fs := (rfl)
@[simp] theorem State.setMu_we : (s.setMu v).we = s.we := (rfl)
@[simp] theorem State.setMu_lp : (s.setMu v).lp = s.lp := (rfl)
@[simp] theorem State.setMu_sl : (s.setMu v).sl = s.sl := (rfl)
@[simp] theorem State.setMu_handed : (s.setMu v).handed = s.handed := (rfl)
@[simp] theorem State.setMu_free : (s.setMu v).free = s.free := (rfl)
@[simp] theorem State.setMu_pending : (s.setMu v).pending = s.pending := (rfl)

end

/-! ## `setLc` -/

section

variable (s : State) (v : Link)

@[simp] theorem State.setLc_now : (s.setLc v).now = s.now := (rfl)
@[simp] theorem State.setLc_config : (s.setLc v).config = s.config := (rfl)
@[simp] theorem State.setLc_mu : (s.setLc v).mu = s.mu := (rfl)
@[simp] theorem State.setLc_lc : (s.setLc v).lc = v := (rfl)
@[simp] theorem State.setLc_tu : (s.setLc v).tu = s.tu := (rfl)
@[simp] theorem State.setLc_cu : (s.setLc v).cu = s.cu := (rfl)
@[simp] theorem State.setLc_fs : (s.setLc v).fs = s.fs := (rfl)
@[simp] theorem State.setLc_we : (s.setLc v).we = s.we := (rfl)
@[simp] theorem State.setLc_lp : (s.setLc v).lp = s.lp := (rfl)
@[simp] theorem State.setLc_sl : (s.setLc v).sl = s.sl := (rfl)
@[simp] theorem State.setLc_handed : (s.setLc v).handed = s.handed := (rfl)
@[simp] theorem State.setLc_free : (s.setLc v).free = s.free := (rfl)
@[simp] theorem State.setLc_pending : (s.setLc v).pending = s.pending := (rfl)

end

/-! ## `setTu` -/

section

variable (s : State) (v : Timing)

@[simp] theorem State.setTu_now : (s.setTu v).now = s.now := (rfl)
@[simp] theorem State.setTu_config : (s.setTu v).config = s.config := (rfl)
@[simp] theorem State.setTu_mu : (s.setTu v).mu = s.mu := (rfl)
@[simp] theorem State.setTu_lc : (s.setTu v).lc = s.lc := (rfl)
@[simp] theorem State.setTu_tu : (s.setTu v).tu = v := (rfl)
@[simp] theorem State.setTu_cu : (s.setTu v).cu = s.cu := (rfl)
@[simp] theorem State.setTu_fs : (s.setTu v).fs = s.fs := (rfl)
@[simp] theorem State.setTu_we : (s.setTu v).we = s.we := (rfl)
@[simp] theorem State.setTu_lp : (s.setTu v).lp = s.lp := (rfl)
@[simp] theorem State.setTu_sl : (s.setTu v).sl = s.sl := (rfl)
@[simp] theorem State.setTu_handed : (s.setTu v).handed = s.handed := (rfl)
@[simp] theorem State.setTu_free : (s.setTu v).free = s.free := (rfl)
@[simp] theorem State.setTu_pending : (s.setTu v).pending = s.pending := (rfl)

end

/-! ## `setCu` -/

section

variable (s : State) (v : Commit)

@[simp] theorem State.setCu_now : (s.setCu v).now = s.now := (rfl)
@[simp] theorem State.setCu_config : (s.setCu v).config = s.config := (rfl)
@[simp] theorem State.setCu_mu : (s.setCu v).mu = s.mu := (rfl)
@[simp] theorem State.setCu_lc : (s.setCu v).lc = s.lc := (rfl)
@[simp] theorem State.setCu_tu : (s.setCu v).tu = s.tu := (rfl)
@[simp] theorem State.setCu_cu : (s.setCu v).cu = v := (rfl)
@[simp] theorem State.setCu_fs : (s.setCu v).fs = s.fs := (rfl)
@[simp] theorem State.setCu_we : (s.setCu v).we = s.we := (rfl)
@[simp] theorem State.setCu_lp : (s.setCu v).lp = s.lp := (rfl)
@[simp] theorem State.setCu_sl : (s.setCu v).sl = s.sl := (rfl)
@[simp] theorem State.setCu_handed : (s.setCu v).handed = s.handed := (rfl)
@[simp] theorem State.setCu_free : (s.setCu v).free = s.free := (rfl)
@[simp] theorem State.setCu_pending : (s.setCu v).pending = s.pending := (rfl)

end

/-! ## `setFs` -/

section

variable (s : State) (v : FrameStore)

@[simp] theorem State.setFs_now : (s.setFs v).now = s.now := (rfl)
@[simp] theorem State.setFs_config : (s.setFs v).config = s.config := (rfl)
@[simp] theorem State.setFs_mu : (s.setFs v).mu = s.mu := (rfl)
@[simp] theorem State.setFs_lc : (s.setFs v).lc = s.lc := (rfl)
@[simp] theorem State.setFs_tu : (s.setFs v).tu = s.tu := (rfl)
@[simp] theorem State.setFs_cu : (s.setFs v).cu = s.cu := (rfl)
@[simp] theorem State.setFs_fs : (s.setFs v).fs = v := (rfl)
@[simp] theorem State.setFs_we : (s.setFs v).we = s.we := (rfl)
@[simp] theorem State.setFs_lp : (s.setFs v).lp = s.lp := (rfl)
@[simp] theorem State.setFs_sl : (s.setFs v).sl = s.sl := (rfl)
@[simp] theorem State.setFs_handed : (s.setFs v).handed = s.handed := (rfl)
@[simp] theorem State.setFs_free : (s.setFs v).free = s.free := (rfl)
@[simp] theorem State.setFs_pending : (s.setFs v).pending = s.pending := (rfl)

end

/-! ## `setWe` -/

section

variable (s : State) (v : Window)

@[simp] theorem State.setWe_now : (s.setWe v).now = s.now := (rfl)
@[simp] theorem State.setWe_config : (s.setWe v).config = s.config := (rfl)
@[simp] theorem State.setWe_mu : (s.setWe v).mu = s.mu := (rfl)
@[simp] theorem State.setWe_lc : (s.setWe v).lc = s.lc := (rfl)
@[simp] theorem State.setWe_tu : (s.setWe v).tu = s.tu := (rfl)
@[simp] theorem State.setWe_cu : (s.setWe v).cu = s.cu := (rfl)
@[simp] theorem State.setWe_fs : (s.setWe v).fs = s.fs := (rfl)
@[simp] theorem State.setWe_we : (s.setWe v).we = v := (rfl)
@[simp] theorem State.setWe_lp : (s.setWe v).lp = s.lp := (rfl)
@[simp] theorem State.setWe_sl : (s.setWe v).sl = s.sl := (rfl)
@[simp] theorem State.setWe_handed : (s.setWe v).handed = s.handed := (rfl)
@[simp] theorem State.setWe_free : (s.setWe v).free = s.free := (rfl)
@[simp] theorem State.setWe_pending : (s.setWe v).pending = s.pending := (rfl)

end

/-! ## `setLp` -/

section

variable (s : State) (v : Port)

@[simp] theorem State.setLp_now : (s.setLp v).now = s.now := (rfl)
@[simp] theorem State.setLp_config : (s.setLp v).config = s.config := (rfl)
@[simp] theorem State.setLp_mu : (s.setLp v).mu = s.mu := (rfl)
@[simp] theorem State.setLp_lc : (s.setLp v).lc = s.lc := (rfl)
@[simp] theorem State.setLp_tu : (s.setLp v).tu = s.tu := (rfl)
@[simp] theorem State.setLp_cu : (s.setLp v).cu = s.cu := (rfl)
@[simp] theorem State.setLp_fs : (s.setLp v).fs = s.fs := (rfl)
@[simp] theorem State.setLp_we : (s.setLp v).we = s.we := (rfl)
@[simp] theorem State.setLp_lp : (s.setLp v).lp = v := (rfl)
@[simp] theorem State.setLp_sl : (s.setLp v).sl = s.sl := (rfl)
@[simp] theorem State.setLp_handed : (s.setLp v).handed = s.handed := (rfl)
@[simp] theorem State.setLp_free : (s.setLp v).free = s.free := (rfl)
@[simp] theorem State.setLp_pending : (s.setLp v).pending = s.pending := (rfl)

end

/-! ## `setSl` -/

section

variable (s : State) (v : StartUp)

@[simp] theorem State.setSl_now : (s.setSl v).now = s.now := (rfl)
@[simp] theorem State.setSl_config : (s.setSl v).config = s.config := (rfl)
@[simp] theorem State.setSl_mu : (s.setSl v).mu = s.mu := (rfl)
@[simp] theorem State.setSl_lc : (s.setSl v).lc = s.lc := (rfl)
@[simp] theorem State.setSl_tu : (s.setSl v).tu = s.tu := (rfl)
@[simp] theorem State.setSl_cu : (s.setSl v).cu = s.cu := (rfl)
@[simp] theorem State.setSl_fs : (s.setSl v).fs = s.fs := (rfl)
@[simp] theorem State.setSl_we : (s.setSl v).we = s.we := (rfl)
@[simp] theorem State.setSl_lp : (s.setSl v).lp = s.lp := (rfl)
@[simp] theorem State.setSl_sl : (s.setSl v).sl = v := (rfl)
@[simp] theorem State.setSl_handed : (s.setSl v).handed = s.handed := (rfl)
@[simp] theorem State.setSl_free : (s.setSl v).free = s.free := (rfl)
@[simp] theorem State.setSl_pending : (s.setSl v).pending = s.pending := (rfl)

end

/-! ## `setHanded` -/

section

variable (s : State) (v : Handed)

@[simp] theorem State.setHanded_now : (s.setHanded v).now = s.now := (rfl)
@[simp] theorem State.setHanded_config : (s.setHanded v).config = s.config := (rfl)
@[simp] theorem State.setHanded_mu : (s.setHanded v).mu = s.mu := (rfl)
@[simp] theorem State.setHanded_lc : (s.setHanded v).lc = s.lc := (rfl)
@[simp] theorem State.setHanded_tu : (s.setHanded v).tu = s.tu := (rfl)
@[simp] theorem State.setHanded_cu : (s.setHanded v).cu = s.cu := (rfl)
@[simp] theorem State.setHanded_fs : (s.setHanded v).fs = s.fs := (rfl)
@[simp] theorem State.setHanded_we : (s.setHanded v).we = s.we := (rfl)
@[simp] theorem State.setHanded_lp : (s.setHanded v).lp = s.lp := (rfl)
@[simp] theorem State.setHanded_sl : (s.setHanded v).sl = s.sl := (rfl)
@[simp] theorem State.setHanded_handed : (s.setHanded v).handed = v := (rfl)
@[simp] theorem State.setHanded_free : (s.setHanded v).free = s.free := (rfl)
@[simp] theorem State.setHanded_pending : (s.setHanded v).pending = s.pending := (rfl)

end

/-! ## `setFree` -/

section

variable (s : State) (v : Nat)

@[simp] theorem State.setFree_now : (s.setFree v).now = s.now := (rfl)
@[simp] theorem State.setFree_config : (s.setFree v).config = s.config := (rfl)
@[simp] theorem State.setFree_mu : (s.setFree v).mu = s.mu := (rfl)
@[simp] theorem State.setFree_lc : (s.setFree v).lc = s.lc := (rfl)
@[simp] theorem State.setFree_tu : (s.setFree v).tu = s.tu := (rfl)
@[simp] theorem State.setFree_cu : (s.setFree v).cu = s.cu := (rfl)
@[simp] theorem State.setFree_fs : (s.setFree v).fs = s.fs := (rfl)
@[simp] theorem State.setFree_we : (s.setFree v).we = s.we := (rfl)
@[simp] theorem State.setFree_lp : (s.setFree v).lp = s.lp := (rfl)
@[simp] theorem State.setFree_sl : (s.setFree v).sl = s.sl := (rfl)
@[simp] theorem State.setFree_handed : (s.setFree v).handed = s.handed := (rfl)
@[simp] theorem State.setFree_free : (s.setFree v).free = v := (rfl)
@[simp] theorem State.setFree_pending : (s.setFree v).pending = s.pending := (rfl)

end

/-! ## `setPending` -/

section

variable (s : State) (v : List Instr)

@[simp] theorem State.setPending_now : (s.setPending v).now = s.now := (rfl)
@[simp] theorem State.setPending_config : (s.setPending v).config = s.config := (rfl)
@[simp] theorem State.setPending_mu : (s.setPending v).mu = s.mu := (rfl)
@[simp] theorem State.setPending_lc : (s.setPending v).lc = s.lc := (rfl)
@[simp] theorem State.setPending_tu : (s.setPending v).tu = s.tu := (rfl)
@[simp] theorem State.setPending_cu : (s.setPending v).cu = s.cu := (rfl)
@[simp] theorem State.setPending_fs : (s.setPending v).fs = s.fs := (rfl)
@[simp] theorem State.setPending_we : (s.setPending v).we = s.we := (rfl)
@[simp] theorem State.setPending_lp : (s.setPending v).lp = s.lp := (rfl)
@[simp] theorem State.setPending_sl : (s.setPending v).sl = s.sl := (rfl)
@[simp] theorem State.setPending_handed : (s.setPending v).handed = s.handed := (rfl)
@[simp] theorem State.setPending_free : (s.setPending v).free = s.free := (rfl)
@[simp] theorem State.setPending_pending : (s.setPending v).pending = v := (rfl)

end

end Sys2Proof.Machine
end

