-- ==== Sys2Proof/Laws/Frames.lean ====
section
/-! SUPPORT. What each shared operation leaves as it stands: one lemma for each. -/

namespace Sys2Proof.Machine

@[simp] theorem State.count_frame (s : State) (c : Counters) :
    (s.count c).now = s.now ∧ (s.count c).config = s.config ∧ (s.count c).mu = s.mu ∧ (s.count c).lc = s.lc ∧
      (s.count c).tu = s.tu ∧ (s.count c).cu = s.cu ∧ (s.count c).fs = s.fs ∧ (s.count c).we = s.we ∧
      (s.count c).sl = s.sl ∧ (s.count c).handed = s.handed ∧ (s.count c).free = s.free ∧
      (s.count c).pending = s.pending := by
  unfold State.count
  try dsimp only
  (repeat' split) <;> simp

@[simp] theorem State.countUnowned_frame (s : State) :
    (s.countUnowned).now = s.now ∧ (s.countUnowned).config = s.config ∧ (s.countUnowned).mu = s.mu ∧
      (s.countUnowned).lc = s.lc ∧ (s.countUnowned).tu = s.tu ∧ (s.countUnowned).cu = s.cu ∧
      (s.countUnowned).fs = s.fs ∧ (s.countUnowned).we = s.we ∧ (s.countUnowned).sl = s.sl ∧
      (s.countUnowned).handed = s.handed ∧ (s.countUnowned).free = s.free ∧ (s.countUnowned).pending = s.pending := by
  unfold State.countUnowned
  try dsimp only
  (repeat' split) <;> simp

@[simp] theorem State.countOverrun_frame (s : State) (n : Nat) :
    (s.countOverrun n).now = s.now ∧ (s.countOverrun n).config = s.config ∧ (s.countOverrun n).mu = s.mu ∧
      (s.countOverrun n).lc = s.lc ∧ (s.countOverrun n).tu = s.tu ∧ (s.countOverrun n).cu = s.cu ∧
      (s.countOverrun n).fs = s.fs ∧ (s.countOverrun n).we = s.we ∧ (s.countOverrun n).sl = s.sl ∧
      (s.countOverrun n).handed = s.handed ∧ (s.countOverrun n).free = s.free ∧
      (s.countOverrun n).pending = s.pending := by
  unfold State.countOverrun
  try dsimp only
  (repeat' split) <;> simp

@[simp] theorem State.countSpansLost_frame (s : State) (n : Nat) :
    (s.countSpansLost n).now = s.now ∧ (s.countSpansLost n).config = s.config ∧ (s.countSpansLost n).mu = s.mu ∧
      (s.countSpansLost n).lc = s.lc ∧ (s.countSpansLost n).tu = s.tu ∧ (s.countSpansLost n).cu = s.cu ∧
      (s.countSpansLost n).fs = s.fs ∧ (s.countSpansLost n).we = s.we ∧ (s.countSpansLost n).sl = s.sl ∧
      (s.countSpansLost n).handed = s.handed ∧ (s.countSpansLost n).free = s.free ∧
      (s.countSpansLost n).pending = s.pending := by
  unfold State.countSpansLost
  try dsimp only
  (repeat' split) <;> simp

@[simp] theorem State.countStale_frame (s : State) (n : Nat) :
    (s.countStale n).now = s.now ∧ (s.countStale n).config = s.config ∧ (s.countStale n).mu = s.mu ∧
      (s.countStale n).lc = s.lc ∧ (s.countStale n).tu = s.tu ∧ (s.countStale n).cu = s.cu ∧
      (s.countStale n).fs = s.fs ∧ (s.countStale n).we = s.we ∧ (s.countStale n).sl = s.sl ∧
      (s.countStale n).handed = s.handed ∧ (s.countStale n).free = s.free ∧ (s.countStale n).pending = s.pending := by
  unfold State.countStale
  try dsimp only
  (repeat' split) <;> simp

@[simp] theorem State.countSpoil_frame (s : State) :
    (s.countSpoil).now = s.now ∧ (s.countSpoil).config = s.config ∧ (s.countSpoil).mu = s.mu ∧
      (s.countSpoil).lc = s.lc ∧ (s.countSpoil).tu = s.tu ∧ (s.countSpoil).cu = s.cu ∧ (s.countSpoil).fs = s.fs ∧
      (s.countSpoil).we = s.we ∧ (s.countSpoil).sl = s.sl ∧ (s.countSpoil).handed = s.handed ∧
      (s.countSpoil).free = s.free ∧ (s.countSpoil).pending = s.pending := by
  unfold State.countSpoil
  try dsimp only
  (repeat' split) <;> simp

@[simp] theorem State.countLateFlip_frame (s : State) :
    (s.countLateFlip).now = s.now ∧ (s.countLateFlip).config = s.config ∧ (s.countLateFlip).mu = s.mu ∧
      (s.countLateFlip).lc = s.lc ∧ (s.countLateFlip).tu = s.tu ∧ (s.countLateFlip).cu = s.cu ∧
      (s.countLateFlip).fs = s.fs ∧ (s.countLateFlip).we = s.we ∧ (s.countLateFlip).sl = s.sl ∧
      (s.countLateFlip).handed = s.handed ∧ (s.countLateFlip).free = s.free ∧ (s.countLateFlip).pending = s.pending := by
  unfold State.countLateFlip
  try dsimp only
  (repeat' split) <;> simp

@[simp] theorem State.raise_frame (s : State) (e : EventRecord) :
    (s.raise e).now = s.now ∧ (s.raise e).config = s.config ∧ (s.raise e).mu = s.mu ∧ (s.raise e).lc = s.lc ∧
      (s.raise e).tu = s.tu ∧ (s.raise e).cu = s.cu ∧ (s.raise e).fs = s.fs ∧ (s.raise e).we = s.we ∧
      (s.raise e).sl = s.sl ∧ (s.raise e).handed = s.handed ∧ (s.raise e).free = s.free ∧
      (s.raise e).pending = s.pending := by
  unfold State.raise
  try dsimp only
  (repeat' split) <;> simp

@[simp] theorem State.raiseAfter_frame (s : State) (e : EventRecord) :
    (s.raiseAfter e).now = s.now ∧ (s.raiseAfter e).config = s.config ∧ (s.raiseAfter e).mu = s.mu ∧
      (s.raiseAfter e).lc = s.lc ∧ (s.raiseAfter e).tu = s.tu ∧ (s.raiseAfter e).cu = s.cu ∧
      (s.raiseAfter e).fs = s.fs ∧ (s.raiseAfter e).we = s.we ∧ (s.raiseAfter e).sl = s.sl ∧
      (s.raiseAfter e).handed = s.handed ∧ (s.raiseAfter e).free = s.free ∧ (s.raiseAfter e).pending = s.pending := by
  unfold State.raiseAfter
  try dsimp only
  (repeat' split) <;> simp

@[simp] theorem State.admitRaised_frame (s : State) :
    (s.admitRaised).now = s.now ∧ (s.admitRaised).config = s.config ∧ (s.admitRaised).mu = s.mu ∧
      (s.admitRaised).lc = s.lc ∧ (s.admitRaised).tu = s.tu ∧ (s.admitRaised).cu = s.cu ∧ (s.admitRaised).fs = s.fs ∧
      (s.admitRaised).we = s.we ∧ (s.admitRaised).sl = s.sl ∧ (s.admitRaised).handed = s.handed ∧
      (s.admitRaised).pending = s.pending := by
  unfold State.admitRaised
  try dsimp only
  (repeat' split) <;> simp

@[simp] theorem State.advance_frame (s : State) (dt : Nat) :
    (s.advance dt).config = s.config ∧ (s.advance dt).mu = s.mu ∧ (s.advance dt).lc = s.lc ∧
      (s.advance dt).tu = s.tu ∧ (s.advance dt).cu = s.cu ∧ (s.advance dt).fs = s.fs ∧ (s.advance dt).we = s.we ∧
      (s.advance dt).lp = s.lp ∧ (s.advance dt).sl = s.sl ∧ (s.advance dt).handed = s.handed ∧
      (s.advance dt).free = s.free ∧ (s.advance dt).pending = s.pending := by
  unfold State.advance
  try dsimp only
  (repeat' split) <;> simp

@[simp] theorem State.setSlots_frame (s : State) (v : Slots) :
    (s.setSlots v).now = s.now ∧ (s.setSlots v).config = s.config ∧ (s.setSlots v).mu = s.mu ∧
      (s.setSlots v).tu = s.tu ∧ (s.setSlots v).cu = s.cu ∧ (s.setSlots v).fs = s.fs ∧ (s.setSlots v).we = s.we ∧
      (s.setSlots v).lp = s.lp ∧ (s.setSlots v).sl = s.sl ∧ (s.setSlots v).handed = s.handed ∧
      (s.setSlots v).free = s.free ∧ (s.setSlots v).pending = s.pending := by
  unfold State.setSlots
  try dsimp only
  (repeat' split) <;> simp

@[simp] theorem State.requestDrop_frame (s : State) (m : StationSet) :
    (s.requestDrop m).now = s.now ∧ (s.requestDrop m).config = s.config ∧ (s.requestDrop m).mu = s.mu ∧
      (s.requestDrop m).tu = s.tu ∧ (s.requestDrop m).cu = s.cu ∧ (s.requestDrop m).fs = s.fs ∧
      (s.requestDrop m).we = s.we ∧ (s.requestDrop m).lp = s.lp ∧ (s.requestDrop m).sl = s.sl ∧
      (s.requestDrop m).handed = s.handed ∧ (s.requestDrop m).free = s.free ∧ (s.requestDrop m).pending = s.pending := by
  unfold State.requestDrop
  try dsimp only
  (repeat' split) <;> simp

@[simp] theorem State.dropLoses_frame (s : State) (m : StationSet) :
    (s.dropLoses m).now = s.now ∧ (s.dropLoses m).config = s.config ∧ (s.dropLoses m).mu = s.mu ∧
      (s.dropLoses m).tu = s.tu ∧ (s.dropLoses m).cu = s.cu ∧ (s.dropLoses m).fs = s.fs ∧ (s.dropLoses m).we = s.we ∧
      (s.dropLoses m).lp = s.lp ∧ (s.dropLoses m).sl = s.sl ∧ (s.dropLoses m).handed = s.handed ∧
      (s.dropLoses m).free = s.free ∧ (s.dropLoses m).pending = s.pending := by
  unfold State.dropLoses
  try dsimp only
  (repeat' split) <;> simp

@[simp] theorem State.freshAddressee_frame (s : State) (x : Station) :
    (s.freshAddressee x).now = s.now ∧ (s.freshAddressee x).config = s.config ∧ (s.freshAddressee x).mu = s.mu ∧
      (s.freshAddressee x).tu = s.tu ∧ (s.freshAddressee x).cu = s.cu ∧ (s.freshAddressee x).fs = s.fs ∧
      (s.freshAddressee x).we = s.we ∧ (s.freshAddressee x).lp = s.lp ∧ (s.freshAddressee x).sl = s.sl ∧
      (s.freshAddressee x).handed = s.handed ∧ (s.freshAddressee x).free = s.free ∧
      (s.freshAddressee x).pending = s.pending := by
  unfold State.freshAddressee
  try dsimp only
  (repeat' split) <;> simp

@[simp] theorem State.setBuffer_frame (s : State) (b : List BufferedPixel) :
    (s.setBuffer b).now = s.now ∧ (s.setBuffer b).config = s.config ∧ (s.setBuffer b).mu = s.mu ∧
      (s.setBuffer b).lc = s.lc ∧ (s.setBuffer b).tu = s.tu ∧ (s.setBuffer b).cu = s.cu ∧ (s.setBuffer b).fs = s.fs ∧
      (s.setBuffer b).lp = s.lp ∧ (s.setBuffer b).sl = s.sl ∧ (s.setBuffer b).handed = s.handed ∧
      (s.setBuffer b).free = s.free ∧ (s.setBuffer b).pending = s.pending := by
  unfold State.setBuffer
  try dsimp only
  (repeat' split) <;> simp

@[simp] theorem State.offerRun_frame (s : State) (r : Run) :
    (s.offerRun r).now = s.now ∧ (s.offerRun r).config = s.config ∧ (s.offerRun r).mu = s.mu ∧
      (s.offerRun r).tu = s.tu ∧ (s.offerRun r).cu = s.cu ∧ (s.offerRun r).fs = s.fs ∧ (s.offerRun r).lp = s.lp ∧
      (s.offerRun r).sl = s.sl ∧ (s.offerRun r).handed = s.handed ∧ (s.offerRun r).free = s.free ∧
      (s.offerRun r).pending = s.pending := by
  unfold State.offerRun
  try dsimp only
  (repeat' split) <;> simp

@[simp] theorem State.closeOpenRun_frame (s : State) :
    (s.closeOpenRun).now = s.now ∧ (s.closeOpenRun).config = s.config ∧ (s.closeOpenRun).mu = s.mu ∧
      (s.closeOpenRun).tu = s.tu ∧ (s.closeOpenRun).cu = s.cu ∧ (s.closeOpenRun).fs = s.fs ∧
      (s.closeOpenRun).lp = s.lp ∧ (s.closeOpenRun).sl = s.sl ∧ (s.closeOpenRun).handed = s.handed ∧
      (s.closeOpenRun).free = s.free ∧ (s.closeOpenRun).pending = s.pending := by
  unfold State.closeOpenRun
  try dsimp only
  (repeat' split) <;> simp

@[simp] theorem State.writeBank_frame (s : State) (bank : Bank) (row start : Nat) (ps : List Pixel) :
    (s.writeBank bank row start ps).now = s.now ∧ (s.writeBank bank row start ps).config = s.config ∧
      (s.writeBank bank row start ps).mu = s.mu ∧ (s.writeBank bank row start ps).lc = s.lc ∧
      (s.writeBank bank row start ps).tu = s.tu ∧ (s.writeBank bank row start ps).cu = s.cu ∧
      (s.writeBank bank row start ps).we = s.we ∧ (s.writeBank bank row start ps).lp = s.lp ∧
      (s.writeBank bank row start ps).sl = s.sl ∧ (s.writeBank bank row start ps).handed = s.handed ∧
      (s.writeBank bank row start ps).free = s.free ∧ (s.writeBank bank row start ps).pending = s.pending := by
  unfold State.writeBank
  try dsimp only
  (repeat' split) <;> simp

@[simp] theorem State.abandonOperation_frame (s : State) :
    (s.abandonOperation).now = s.now ∧ (s.abandonOperation).config = s.config ∧ (s.abandonOperation).mu = s.mu ∧
      (s.abandonOperation).lc = s.lc ∧ (s.abandonOperation).tu = s.tu ∧ (s.abandonOperation).cu = s.cu ∧
      (s.abandonOperation).we = s.we ∧ (s.abandonOperation).lp = s.lp ∧ (s.abandonOperation).sl = s.sl ∧
      (s.abandonOperation).handed = s.handed ∧ (s.abandonOperation).pending = s.pending := by
  unfold State.abandonOperation
  try dsimp only
  (repeat' split) <;> simp

@[simp] theorem State.beginOperation_frame (s : State) (q : Requester) :
    (s.beginOperation q).now = s.now ∧ (s.beginOperation q).config = s.config ∧ (s.beginOperation q).mu = s.mu ∧
      (s.beginOperation q).lc = s.lc ∧ (s.beginOperation q).tu = s.tu ∧ (s.beginOperation q).cu = s.cu ∧
      (s.beginOperation q).we = s.we ∧ (s.beginOperation q).lp = s.lp ∧ (s.beginOperation q).sl = s.sl ∧
      (s.beginOperation q).handed = s.handed ∧ (s.beginOperation q).free = s.free ∧
      (s.beginOperation q).pending = s.pending := by
  unfold State.beginOperation
  try dsimp only
  (repeat' split) <;> simp

@[simp] theorem State.setLock_frame (s : State) (l : LockState) :
    (s.setLock l).now = s.now ∧ (s.setLock l).config = s.config ∧ (s.setLock l).mu = s.mu ∧ (s.setLock l).lc = s.lc ∧
      (s.setLock l).cu = s.cu ∧ (s.setLock l).fs = s.fs ∧ (s.setLock l).we = s.we ∧ (s.setLock l).sl = s.sl ∧
      (s.setLock l).handed = s.handed ∧ (s.setLock l).free = s.free ∧ (s.setLock l).pending = s.pending := by
  unfold State.setLock
  try dsimp only
  (repeat' split) <;> simp

@[simp] theorem State.teardown_frame (s : State) (st : StationState) (c : Cause) :
    (s.teardown st c).now = s.now ∧ (s.teardown st c).config = s.config ∧ (s.teardown st c).sl = s.sl ∧
      (s.teardown st c).pending = s.pending := by
  unfold State.teardown
  try dsimp only
  (repeat' split) <;> simp

@[simp] theorem State.enterConflict_frame (s : State) (b : Bool) :
    (s.enterConflict b).now = s.now ∧ (s.enterConflict b).config = s.config ∧ (s.enterConflict b).sl = s.sl ∧
      (s.enterConflict b).pending = s.pending := by
  unfold State.enterConflict
  try dsimp only
  (repeat' split) <;> simp

@[simp] theorem State.evict_frame (s : State) (b : Bool) :
    (s.evict b).now = s.now ∧ (s.evict b).config = s.config ∧ (s.evict b).sl = s.sl ∧ (s.evict b).pending = s.pending := by
  unfold State.evict
  try dsimp only
  (repeat' split) <;> simp

@[simp] theorem State.detach_frame (s : State) :
    (s.detach).now = s.now ∧ (s.detach).config = s.config ∧ (s.detach).sl = s.sl ∧ (s.detach).pending = s.pending := by
  unfold State.detach
  try dsimp only
  (repeat' split) <;> simp

@[simp] theorem State.enterListen_frame (s : State) :
    (s.enterListen).now = s.now ∧ (s.enterListen).config = s.config ∧ (s.enterListen).we = s.we ∧
      (s.enterListen).lp = s.lp ∧ (s.enterListen).sl = s.sl ∧ (s.enterListen).free = s.free ∧
      (s.enterListen).pending = s.pending := by
  unfold State.enterListen
  try dsimp only
  (repeat' split) <;> simp

@[simp] theorem State.found_frame (s : State) :
    (s.found).now = s.now ∧ (s.found).config = s.config ∧ (s.found).lc = s.lc ∧ (s.found).fs = s.fs ∧
      (s.found).we = s.we ∧ (s.found).lp = s.lp ∧ (s.found).sl = s.sl ∧ (s.found).handed = s.handed ∧
      (s.found).free = s.free ∧ (s.found).pending = s.pending := by
  unfold State.found
  try dsimp only
  (repeat' split) <;> simp

@[simp] theorem State.refound_frame (s : State) :
    (s.refound).now = s.now ∧ (s.refound).config = s.config ∧ (s.refound).lc = s.lc ∧ (s.refound).fs = s.fs ∧
      (s.refound).we = s.we ∧ (s.refound).sl = s.sl ∧ (s.refound).handed = s.handed ∧ (s.refound).free = s.free ∧
      (s.refound).pending = s.pending := by
  unfold State.refound
  try dsimp only
  (repeat' split) <;> simp

@[simp] theorem closeEvent_frame (s : State) :
    (closeEvent s).now = s.now ∧ (closeEvent s).config = s.config ∧ (closeEvent s).lc = s.lc ∧
      (closeEvent s).fs = s.fs ∧ (closeEvent s).we = s.we ∧ (closeEvent s).sl = s.sl ∧
      (closeEvent s).handed = s.handed ∧ (closeEvent s).pending = s.pending := by
  unfold closeEvent
  try dsimp only
  (repeat' split) <;> simp

@[simp] theorem State.setRecord_frame (s : State) (r : Record) :
    (s.setRecord r).now = s.now ∧ (s.setRecord r).config = s.config ∧ (s.setRecord r).mu = s.mu ∧
      (s.setRecord r).lc = s.lc ∧ (s.setRecord r).tu = s.tu ∧ (s.setRecord r).fs = s.fs ∧ (s.setRecord r).we = s.we ∧
      (s.setRecord r).lp = s.lp ∧ (s.setRecord r).sl = s.sl ∧ (s.setRecord r).handed = s.handed ∧
      (s.setRecord r).free = s.free ∧ (s.setRecord r).pending = s.pending := by
  unfold State.setRecord
  try dsimp only
  (repeat' split) <;> simp

@[simp] theorem State.recordLoses_frame (s : State) (m : StationSet) :
    (s.recordLoses m).now = s.now ∧ (s.recordLoses m).config = s.config ∧ (s.recordLoses m).mu = s.mu ∧
      (s.recordLoses m).lc = s.lc ∧ (s.recordLoses m).tu = s.tu ∧ (s.recordLoses m).fs = s.fs ∧
      (s.recordLoses m).we = s.we ∧ (s.recordLoses m).lp = s.lp ∧ (s.recordLoses m).sl = s.sl ∧
      (s.recordLoses m).handed = s.handed ∧ (s.recordLoses m).free = s.free ∧ (s.recordLoses m).pending = s.pending := by
  unfold State.recordLoses
  try dsimp only
  (repeat' split) <;> simp

@[simp] theorem State.commit_frame (s : State) (r : Record) (k : Completing) :
    (s.commit r k).now = s.now ∧ (s.commit r k).config = s.config ∧ (s.commit r k).mu = s.mu ∧
      (s.commit r k).tu = s.tu ∧ (s.commit r k).fs = s.fs ∧ (s.commit r k).we = s.we ∧ (s.commit r k).lp = s.lp ∧
      (s.commit r k).sl = s.sl ∧ (s.commit r k).handed = s.handed ∧ (s.commit r k).free = s.free ∧
      (s.commit r k).pending = s.pending := by
  unfold State.commit
  try dsimp only
  (repeat' split) <;> simp

@[simp] theorem State.completionCheck_frame (s : State) (k : Completing) :
    (s.completionCheck k).now = s.now ∧ (s.completionCheck k).config = s.config ∧ (s.completionCheck k).mu = s.mu ∧
      (s.completionCheck k).tu = s.tu ∧ (s.completionCheck k).fs = s.fs ∧ (s.completionCheck k).we = s.we ∧
      (s.completionCheck k).lp = s.lp ∧ (s.completionCheck k).sl = s.sl ∧ (s.completionCheck k).handed = s.handed ∧
      (s.completionCheck k).free = s.free ∧ (s.completionCheck k).pending = s.pending := by
  unfold State.completionCheck
  try dsimp only
  (repeat' split) <;> simp

@[simp] theorem State.withoutEntries_frame (s : State) (x : Station) :
    (s.withoutEntries x).now = s.now ∧ (s.withoutEntries x).config = s.config ∧ (s.withoutEntries x).mu = s.mu ∧
      (s.withoutEntries x).tu = s.tu ∧ (s.withoutEntries x).cu = s.cu ∧ (s.withoutEntries x).fs = s.fs ∧
      (s.withoutEntries x).lp = s.lp ∧ (s.withoutEntries x).sl = s.sl ∧ (s.withoutEntries x).handed = s.handed ∧
      (s.withoutEntries x).free = s.free ∧ (s.withoutEntries x).pending = s.pending := by
  unfold State.withoutEntries
  try dsimp only
  (repeat' split) <;> simp

@[simp] theorem State.reportGone_frame (s : State) (x : Station) (lost : List Epoch) :
    (s.reportGone x lost).now = s.now ∧ (s.reportGone x lost).config = s.config ∧ (s.reportGone x lost).mu = s.mu ∧
      (s.reportGone x lost).lc = s.lc ∧ (s.reportGone x lost).tu = s.tu ∧ (s.reportGone x lost).cu = s.cu ∧
      (s.reportGone x lost).fs = s.fs ∧ (s.reportGone x lost).we = s.we ∧ (s.reportGone x lost).sl = s.sl ∧
      (s.reportGone x lost).handed = s.handed ∧ (s.reportGone x lost).free = s.free ∧
      (s.reportGone x lost).pending = s.pending := by
  unfold State.reportGone
  try dsimp only
  (repeat' split) <;> simp

@[simp] theorem State.discardFor_frame (s : State) (x : Station) :
    (s.discardFor x).now = s.now ∧ (s.discardFor x).config = s.config ∧ (s.discardFor x).mu = s.mu ∧
      (s.discardFor x).tu = s.tu ∧ (s.discardFor x).cu = s.cu ∧ (s.discardFor x).fs = s.fs ∧
      (s.discardFor x).sl = s.sl ∧ (s.discardFor x).handed = s.handed ∧ (s.discardFor x).free = s.free ∧
      (s.discardFor x).pending = s.pending := by
  unfold State.discardFor
  try dsimp only
  (repeat' split) <;> simp

@[simp] theorem State.handOnRemovals_frame (s : State) (m : StationSet) :
    (s.handOnRemovals m).now = s.now ∧ (s.handOnRemovals m).config = s.config ∧ (s.handOnRemovals m).mu = s.mu ∧
      (s.handOnRemovals m).tu = s.tu ∧ (s.handOnRemovals m).cu = s.cu ∧ (s.handOnRemovals m).fs = s.fs ∧
      (s.handOnRemovals m).sl = s.sl ∧ (s.handOnRemovals m).handed = s.handed ∧ (s.handOnRemovals m).free = s.free ∧
      (s.handOnRemovals m).pending = s.pending := by
  have h : ∀ (l : List Station) (s : State), (l.foldl State.discardFor s).now = s.now ∧ (l.foldl State.discardFor s).config = s.config ∧ (l.foldl State.discardFor s).mu = s.mu ∧ (l.foldl State.discardFor s).tu = s.tu ∧ (l.foldl State.discardFor s).cu = s.cu ∧ (l.foldl State.discardFor s).fs = s.fs ∧ (l.foldl State.discardFor s).sl = s.sl ∧ (l.foldl State.discardFor s).handed = s.handed ∧ (l.foldl State.discardFor s).free = s.free ∧ (l.foldl State.discardFor s).pending = s.pending := by
    intro l
    induction l with
    | nil => intro s; simp
    | cons x l ih => intro s; have h := ih (s.discardFor x); simpa using h
  have := h (stationsOf m) (s.dropLoses m)
  simpa [State.handOnRemovals] using this

@[simp] theorem State.rankRetest_frame (s : State) :
    (s.rankRetest).now = s.now ∧ (s.rankRetest).config = s.config ∧ (s.rankRetest).mu = s.mu ∧
      (s.rankRetest).tu = s.tu ∧ (s.rankRetest).cu = s.cu ∧ (s.rankRetest).fs = s.fs ∧ (s.rankRetest).we = s.we ∧
      (s.rankRetest).lp = s.lp ∧ (s.rankRetest).sl = s.sl ∧ (s.rankRetest).handed = s.handed ∧
      (s.rankRetest).free = s.free ∧ (s.rankRetest).pending = s.pending := by
  unfold State.rankRetest
  try dsimp only
  (repeat' split) <;> simp

@[simp] theorem State.latchSlots_frame (s : State) (b : Bool) :
    (s.latchSlots b).now = s.now ∧ (s.latchSlots b).config = s.config ∧ (s.latchSlots b).mu = s.mu ∧
      (s.latchSlots b).tu = s.tu ∧ (s.latchSlots b).cu = s.cu ∧ (s.latchSlots b).fs = s.fs ∧
      (s.latchSlots b).we = s.we ∧ (s.latchSlots b).lp = s.lp ∧ (s.latchSlots b).sl = s.sl ∧
      (s.latchSlots b).handed = s.handed ∧ (s.latchSlots b).free = s.free ∧ (s.latchSlots b).pending = s.pending := by
  unfold State.latchSlots
  try dsimp only
  (repeat' split) <;> simp

@[simp] theorem State.swapBanks_frame (s : State) :
    (s.swapBanks).now = s.now ∧ (s.swapBanks).config = s.config ∧ (s.swapBanks).mu = s.mu ∧ (s.swapBanks).lc = s.lc ∧
      (s.swapBanks).tu = s.tu ∧ (s.swapBanks).cu = s.cu ∧ (s.swapBanks).we = s.we ∧ (s.swapBanks).lp = s.lp ∧
      (s.swapBanks).sl = s.sl ∧ (s.swapBanks).handed = s.handed ∧ (s.swapBanks).free = s.free ∧
      (s.swapBanks).pending = s.pending := by
  unfold State.swapBanks
  try dsimp only
  (repeat' split) <;> simp

@[simp] theorem State.passFlip_frame (s : State) (r : Record) (l : LastCommit) :
    (s.passFlip r l).now = s.now ∧ (s.passFlip r l).config = s.config ∧ (s.passFlip r l).mu = s.mu ∧
      (s.passFlip r l).lc = s.lc ∧ (s.passFlip r l).tu = s.tu ∧ (s.passFlip r l).fs = s.fs ∧
      (s.passFlip r l).we = s.we ∧ (s.passFlip r l).lp = s.lp ∧ (s.passFlip r l).sl = s.sl ∧
      (s.passFlip r l).handed = s.handed ∧ (s.passFlip r l).free = s.free ∧ (s.passFlip r l).pending = s.pending := by
  unfold State.passFlip
  try dsimp only
  (repeat' split) <;> simp

@[simp] theorem State.reportFlip_frame (s : State) (p : Epoch) :
    (s.reportFlip p).now = s.now ∧ (s.reportFlip p).config = s.config ∧ (s.reportFlip p).mu = s.mu ∧
      (s.reportFlip p).lc = s.lc ∧ (s.reportFlip p).tu = s.tu ∧ (s.reportFlip p).cu = s.cu ∧
      (s.reportFlip p).fs = s.fs ∧ (s.reportFlip p).we = s.we ∧ (s.reportFlip p).sl = s.sl ∧
      (s.reportFlip p).handed = s.handed ∧ (s.reportFlip p).free = s.free ∧ (s.reportFlip p).pending = s.pending := by
  unfold State.reportFlip
  try dsimp only
  (repeat' split) <;> simp

@[simp] theorem State.reportLateness_frame (s : State) (l : LastCommit) :
    (s.reportLateness l).now = s.now ∧ (s.reportLateness l).config = s.config ∧ (s.reportLateness l).mu = s.mu ∧
      (s.reportLateness l).lc = s.lc ∧ (s.reportLateness l).tu = s.tu ∧ (s.reportLateness l).cu = s.cu ∧
      (s.reportLateness l).fs = s.fs ∧ (s.reportLateness l).we = s.we ∧ (s.reportLateness l).sl = s.sl ∧
      (s.reportLateness l).handed = s.handed ∧ (s.reportLateness l).free = s.free ∧
      (s.reportLateness l).pending = s.pending := by
  unfold State.reportLateness
  try dsimp only
  (repeat' split) <;> simp

@[simp] theorem State.takeFlip_frame (s : State) (r : Record) (l : LastCommit) :
    (s.takeFlip r l).now = s.now ∧ (s.takeFlip r l).config = s.config ∧ (s.takeFlip r l).mu = s.mu ∧
      (s.takeFlip r l).lc = s.lc ∧ (s.takeFlip r l).tu = s.tu ∧ (s.takeFlip r l).we = s.we ∧
      (s.takeFlip r l).sl = s.sl ∧ (s.takeFlip r l).handed = s.handed ∧ (s.takeFlip r l).free = s.free ∧
      (s.takeFlip r l).pending = s.pending := by
  unfold State.takeFlip
  try dsimp only
  (repeat' split) <;> simp

@[simp] theorem State.flipBody_frame (s : State) :
    (s.flipBody).now = s.now ∧ (s.flipBody).config = s.config ∧ (s.flipBody).mu = s.mu ∧ (s.flipBody).lc = s.lc ∧
      (s.flipBody).tu = s.tu ∧ (s.flipBody).we = s.we ∧ (s.flipBody).sl = s.sl ∧ (s.flipBody).free = s.free ∧
      (s.flipBody).pending = s.pending := by
  unfold State.flipBody
  try dsimp only
  (repeat' split) <;> simp

@[simp] theorem State.flipPassedBody_frame (s : State) :
    (s.flipPassedBody).now = s.now ∧ (s.flipPassedBody).config = s.config ∧ (s.flipPassedBody).mu = s.mu ∧
      (s.flipPassedBody).lc = s.lc ∧ (s.flipPassedBody).tu = s.tu ∧ (s.flipPassedBody).fs = s.fs ∧
      (s.flipPassedBody).we = s.we ∧ (s.flipPassedBody).lp = s.lp ∧ (s.flipPassedBody).sl = s.sl ∧
      (s.flipPassedBody).free = s.free ∧ (s.flipPassedBody).pending = s.pending := by
  unfold State.flipPassedBody
  try dsimp only
  (repeat' split) <;> simp

@[simp] theorem State.lockLossBody_frame (s : State) :
    (s.lockLossBody).now = s.now ∧ (s.lockLossBody).config = s.config ∧ (s.lockLossBody).mu = s.mu ∧
      (s.lockLossBody).lc = s.lc ∧ (s.lockLossBody).cu = s.cu ∧ (s.lockLossBody).fs = s.fs ∧
      (s.lockLossBody).we = s.we ∧ (s.lockLossBody).sl = s.sl ∧ (s.lockLossBody).free = s.free ∧
      (s.lockLossBody).pending = s.pending := by
  unfold State.lockLossBody
  try dsimp only
  (repeat' split) <;> simp

@[simp] theorem State.beaconLossBody_frame (s : State) :
    (s.beaconLossBody).now = s.now ∧ (s.beaconLossBody).config = s.config ∧ (s.beaconLossBody).mu = s.mu ∧
      (s.beaconLossBody).tu = s.tu ∧ (s.beaconLossBody).cu = s.cu ∧ (s.beaconLossBody).fs = s.fs ∧
      (s.beaconLossBody).we = s.we ∧ (s.beaconLossBody).lp = s.lp ∧ (s.beaconLossBody).sl = s.sl ∧
      (s.beaconLossBody).free = s.free ∧ (s.beaconLossBody).pending = s.pending := by
  unfold State.beaconLossBody
  try dsimp only
  (repeat' split) <;> simp

@[simp] theorem State.readyWaitBody_frame (s : State) :
    (s.readyWaitBody).now = s.now ∧ (s.readyWaitBody).config = s.config ∧ (s.readyWaitBody).mu = s.mu ∧
      (s.readyWaitBody).tu = s.tu ∧ (s.readyWaitBody).cu = s.cu ∧ (s.readyWaitBody).fs = s.fs ∧
      (s.readyWaitBody).we = s.we ∧ (s.readyWaitBody).lp = s.lp ∧ (s.readyWaitBody).sl = s.sl ∧
      (s.readyWaitBody).free = s.free ∧ (s.readyWaitBody).pending = s.pending := by
  unfold State.readyWaitBody
  try dsimp only
  (repeat' split) <;> simp

@[simp] theorem State.bankClearEndBody_frame (s : State) :
    (s.bankClearEndBody).now = s.now ∧ (s.bankClearEndBody).config = s.config ∧ (s.bankClearEndBody).mu = s.mu ∧
      (s.bankClearEndBody).lc = s.lc ∧ (s.bankClearEndBody).tu = s.tu ∧ (s.bankClearEndBody).cu = s.cu ∧
      (s.bankClearEndBody).we = s.we ∧ (s.bankClearEndBody).lp = s.lp ∧ (s.bankClearEndBody).sl = s.sl ∧
      (s.bankClearEndBody).handed = s.handed ∧ (s.bankClearEndBody).free = s.free ∧
      (s.bankClearEndBody).pending = s.pending := by
  unfold State.bankClearEndBody
  try dsimp only
  (repeat' split) <;> simp

@[simp] theorem State.joiningPassageBody_frame (s : State) :
    (s.joiningPassageBody).now = s.now ∧ (s.joiningPassageBody).config = s.config ∧
      (s.joiningPassageBody).tu = s.tu ∧ (s.joiningPassageBody).cu = s.cu ∧ (s.joiningPassageBody).fs = s.fs ∧
      (s.joiningPassageBody).we = s.we ∧ (s.joiningPassageBody).lp = s.lp ∧ (s.joiningPassageBody).sl = s.sl ∧
      (s.joiningPassageBody).handed = s.handed ∧ (s.joiningPassageBody).free = s.free ∧
      (s.joiningPassageBody).pending = s.pending := by
  unfold State.joiningPassageBody
  try dsimp only
  (repeat' split) <;> simp

@[simp] theorem State.waitingSpanBody_frame (s : State) :
    (s.waitingSpanBody).now = s.now ∧ (s.waitingSpanBody).config = s.config ∧ (s.waitingSpanBody).mu = s.mu ∧
      (s.waitingSpanBody).tu = s.tu ∧ (s.waitingSpanBody).cu = s.cu ∧ (s.waitingSpanBody).fs = s.fs ∧
      (s.waitingSpanBody).lp = s.lp ∧ (s.waitingSpanBody).sl = s.sl ∧ (s.waitingSpanBody).handed = s.handed ∧
      (s.waitingSpanBody).free = s.free ∧ (s.waitingSpanBody).pending = s.pending := by
  unfold State.waitingSpanBody
  try dsimp only
  (repeat' split) <;> simp

@[simp] theorem State.readyQueuedBody_frame (s : State) :
    (s.readyQueuedBody).now = s.now ∧ (s.readyQueuedBody).config = s.config ∧ (s.readyQueuedBody).mu = s.mu ∧
      (s.readyQueuedBody).tu = s.tu ∧ (s.readyQueuedBody).cu = s.cu ∧ (s.readyQueuedBody).fs = s.fs ∧
      (s.readyQueuedBody).we = s.we ∧ (s.readyQueuedBody).lp = s.lp ∧ (s.readyQueuedBody).sl = s.sl ∧
      (s.readyQueuedBody).handed = s.handed ∧ (s.readyQueuedBody).free = s.free ∧
      (s.readyQueuedBody).pending = s.pending := by
  unfold State.readyQueuedBody
  try dsimp only
  (repeat' split) <;> simp

@[simp] theorem State.grantBody_frame (s : State) :
    (s.grantBody).now = s.now ∧ (s.grantBody).config = s.config ∧ (s.grantBody).mu = s.mu ∧ (s.grantBody).lc = s.lc ∧
      (s.grantBody).tu = s.tu ∧ (s.grantBody).cu = s.cu ∧ (s.grantBody).we = s.we ∧ (s.grantBody).lp = s.lp ∧
      (s.grantBody).sl = s.sl ∧ (s.grantBody).handed = s.handed ∧ (s.grantBody).free = s.free ∧
      (s.grantBody).pending = s.pending := by
  unfold State.grantBody
  try dsimp only
  (repeat' split) <;> simp

@[simp] theorem settle_frame (s : State) :
    (settle s).now = s.now ∧ (settle s).sl = s.sl ∧ (settle s).pending = s.pending := by
  unfold settle
  try dsimp only
  (repeat' split) <;> simp

end Sys2Proof.Machine
end

