-- ==== Sys2Proof/Laws/CommandFrames.lean ====
section
/-! SUPPORT. What each part of a command leaves as it stands: one lemma for each. -/

namespace Sys2Proof.Machine

@[simp] theorem State.openPort_frame (s : State) (t : Transaction) (l : List Byte) :
    (s.openPort t l).now = s.now ∧ (s.openPort t l).config = s.config ∧ (s.openPort t l).mu = s.mu ∧
      (s.openPort t l).lc = s.lc ∧ (s.openPort t l).tu = s.tu ∧ (s.openPort t l).cu = s.cu ∧
      (s.openPort t l).fs = s.fs ∧ (s.openPort t l).we = s.we ∧ (s.openPort t l).sl = s.sl ∧
      (s.openPort t l).handed = s.handed ∧ (s.openPort t l).free = s.free ∧ (s.openPort t l).pending = s.pending := by
  unfold State.openPort
  try dsimp only
  (repeat' split) <;> simp

@[simp] theorem State.setResult_frame (s : State) (r : Result) :
    (s.setResult r).now = s.now ∧ (s.setResult r).config = s.config ∧ (s.setResult r).mu = s.mu ∧
      (s.setResult r).lc = s.lc ∧ (s.setResult r).tu = s.tu ∧ (s.setResult r).cu = s.cu ∧ (s.setResult r).fs = s.fs ∧
      (s.setResult r).we = s.we ∧ (s.setResult r).sl = s.sl ∧ (s.setResult r).handed = s.handed ∧
      (s.setResult r).free = s.free ∧ (s.setResult r).pending = s.pending := by
  unfold State.setResult
  try dsimp only
  (repeat' split) <;> simp

@[simp] theorem State.readStatusBody_frame (n : Nat) (s : State) :
    (s.readStatusBody n).now = s.now ∧ (s.readStatusBody n).config = s.config ∧ (s.readStatusBody n).mu = s.mu ∧
      (s.readStatusBody n).lc = s.lc ∧ (s.readStatusBody n).tu = s.tu ∧ (s.readStatusBody n).cu = s.cu ∧
      (s.readStatusBody n).fs = s.fs ∧ (s.readStatusBody n).we = s.we ∧ (s.readStatusBody n).sl = s.sl ∧
      (s.readStatusBody n).handed = s.handed ∧ (s.readStatusBody n).free = s.free ∧
      (s.readStatusBody n).pending = s.pending := by
  unfold State.readStatusBody
  try dsimp only
  (repeat' split) <;> simp

@[simp] theorem State.readEventBody_frame (s : State) :
    (s.readEventBody).now = s.now ∧ (s.readEventBody).config = s.config ∧ (s.readEventBody).mu = s.mu ∧
      (s.readEventBody).lc = s.lc ∧ (s.readEventBody).tu = s.tu ∧ (s.readEventBody).cu = s.cu ∧
      (s.readEventBody).fs = s.fs ∧ (s.readEventBody).we = s.we ∧ (s.readEventBody).sl = s.sl ∧
      (s.readEventBody).handed = s.handed ∧ (s.readEventBody).free = s.free ∧ (s.readEventBody).pending = s.pending := by
  unfold State.readEventBody
  try dsimp only
  (repeat' split) <;> simp

@[simp] theorem State.readCountersBody_frame (s : State) :
    (s.readCountersBody).now = s.now ∧ (s.readCountersBody).config = s.config ∧ (s.readCountersBody).mu = s.mu ∧
      (s.readCountersBody).lc = s.lc ∧ (s.readCountersBody).tu = s.tu ∧ (s.readCountersBody).cu = s.cu ∧
      (s.readCountersBody).fs = s.fs ∧ (s.readCountersBody).we = s.we ∧ (s.readCountersBody).sl = s.sl ∧
      (s.readCountersBody).handed = s.handed ∧ (s.readCountersBody).free = s.free ∧
      (s.readCountersBody).pending = s.pending := by
  unfold State.readCountersBody
  try dsimp only
  (repeat' split) <;> simp

@[simp] theorem State.readFrontRowBody_frame (s : State) :
    (s.readFrontRowBody).now = s.now ∧ (s.readFrontRowBody).config = s.config ∧ (s.readFrontRowBody).mu = s.mu ∧
      (s.readFrontRowBody).lc = s.lc ∧ (s.readFrontRowBody).tu = s.tu ∧ (s.readFrontRowBody).cu = s.cu ∧
      (s.readFrontRowBody).fs = s.fs ∧ (s.readFrontRowBody).we = s.we ∧ (s.readFrontRowBody).sl = s.sl ∧
      (s.readFrontRowBody).handed = s.handed ∧ (s.readFrontRowBody).free = s.free ∧
      (s.readFrontRowBody).pending = s.pending := by
  unfold State.readFrontRowBody
  try dsimp only
  (repeat' split) <;> simp

@[simp] theorem State.openStream_frame (s : State) :
    (s.openStream).now = s.now ∧ (s.openStream).config = s.config ∧ (s.openStream).mu = s.mu ∧
      (s.openStream).lc = s.lc ∧ (s.openStream).tu = s.tu ∧ (s.openStream).cu = s.cu ∧ (s.openStream).fs = s.fs ∧
      (s.openStream).we = s.we ∧ (s.openStream).sl = s.sl ∧ (s.openStream).handed = s.handed ∧
      (s.openStream).free = s.free ∧ (s.openStream).pending = s.pending := by
  unfold State.openStream
  try dsimp only
  (repeat' split) <;> simp

@[simp] theorem State.streamStartBody_frame (s : State) :
    (s.streamStartBody).now = s.now ∧ (s.streamStartBody).config = s.config ∧ (s.streamStartBody).mu = s.mu ∧
      (s.streamStartBody).lc = s.lc ∧ (s.streamStartBody).tu = s.tu ∧ (s.streamStartBody).cu = s.cu ∧
      (s.streamStartBody).fs = s.fs ∧ (s.streamStartBody).sl = s.sl ∧ (s.streamStartBody).handed = s.handed ∧
      (s.streamStartBody).free = s.free ∧ (s.streamStartBody).pending = s.pending := by
  unfold State.streamStartBody
  try dsimp only
  (repeat' split) <;> simp

@[simp] theorem State.streamContinueBody_frame (s : State) :
    (s.streamContinueBody).now = s.now ∧ (s.streamContinueBody).config = s.config ∧
      (s.streamContinueBody).mu = s.mu ∧ (s.streamContinueBody).lc = s.lc ∧ (s.streamContinueBody).tu = s.tu ∧
      (s.streamContinueBody).cu = s.cu ∧ (s.streamContinueBody).fs = s.fs ∧ (s.streamContinueBody).sl = s.sl ∧
      (s.streamContinueBody).handed = s.handed ∧ (s.streamContinueBody).free = s.free ∧
      (s.streamContinueBody).pending = s.pending := by
  unfold State.streamContinueBody
  try dsimp only
  (repeat' split) <;> simp

@[simp] theorem State.placePixel_frame (s : State) (t : Tile) (p : BufferedPixel) :
    (s.placePixel t p).now = s.now ∧ (s.placePixel t p).config = s.config ∧ (s.placePixel t p).mu = s.mu ∧
      (s.placePixel t p).tu = s.tu ∧ (s.placePixel t p).cu = s.cu ∧ (s.placePixel t p).fs = s.fs ∧
      (s.placePixel t p).lp = s.lp ∧ (s.placePixel t p).sl = s.sl ∧ (s.placePixel t p).handed = s.handed ∧
      (s.placePixel t p).free = s.free ∧ (s.placePixel t p).pending = s.pending := by
  unfold State.placePixel
  try dsimp only
  (repeat' split) <;> simp

@[simp] theorem State.closeIfFull_frame (s : State) (b : Bool) :
    (s.closeIfFull b).now = s.now ∧ (s.closeIfFull b).config = s.config ∧ (s.closeIfFull b).mu = s.mu ∧
      (s.closeIfFull b).tu = s.tu ∧ (s.closeIfFull b).cu = s.cu ∧ (s.closeIfFull b).fs = s.fs ∧
      (s.closeIfFull b).lp = s.lp ∧ (s.closeIfFull b).sl = s.sl ∧ (s.closeIfFull b).handed = s.handed ∧
      (s.closeIfFull b).free = s.free ∧ (s.closeIfFull b).pending = s.pending := by
  unfold State.closeIfFull
  try dsimp only
  (repeat' split) <;> simp

@[simp] theorem State.routePixelBody_frame (s : State) :
    (s.routePixelBody).now = s.now ∧ (s.routePixelBody).config = s.config ∧ (s.routePixelBody).mu = s.mu ∧
      (s.routePixelBody).tu = s.tu ∧ (s.routePixelBody).cu = s.cu ∧ (s.routePixelBody).fs = s.fs ∧
      (s.routePixelBody).sl = s.sl ∧ (s.routePixelBody).handed = s.handed ∧ (s.routePixelBody).free = s.free ∧
      (s.routePixelBody).pending = s.pending := by
  unfold State.routePixelBody
  try dsimp only
  (repeat' split) <;> simp

@[simp] theorem State.placeCorrection_frame (s : State) (e : Int) :
    (s.placeCorrection e).now = s.now ∧ (s.placeCorrection e).config = s.config ∧ (s.placeCorrection e).mu = s.mu ∧
      (s.placeCorrection e).lc = s.lc ∧ (s.placeCorrection e).cu = s.cu ∧ (s.placeCorrection e).fs = s.fs ∧
      (s.placeCorrection e).we = s.we ∧ (s.placeCorrection e).lp = s.lp ∧ (s.placeCorrection e).sl = s.sl ∧
      (s.placeCorrection e).handed = s.handed ∧ (s.placeCorrection e).free = s.free ∧
      (s.placeCorrection e).pending = s.pending := by
  unfold State.placeCorrection
  try dsimp only
  (repeat' split) <;> simp

@[simp] theorem State.countFrame_frame (s : State) :
    (s.countFrame).now = s.now ∧ (s.countFrame).config = s.config ∧ (s.countFrame).mu = s.mu ∧
      (s.countFrame).lc = s.lc ∧ (s.countFrame).cu = s.cu ∧ (s.countFrame).fs = s.fs ∧ (s.countFrame).we = s.we ∧
      (s.countFrame).lp = s.lp ∧ (s.countFrame).sl = s.sl ∧ (s.countFrame).handed = s.handed ∧
      (s.countFrame).free = s.free ∧ (s.countFrame).pending = s.pending := by
  unfold State.countFrame
  try dsimp only
  (repeat' split) <;> simp

@[simp] theorem State.countListen_frame (s : State) :
    (s.countListen).now = s.now ∧ (s.countListen).config = s.config ∧ (s.countListen).lc = s.lc ∧
      (s.countListen).tu = s.tu ∧ (s.countListen).cu = s.cu ∧ (s.countListen).fs = s.fs ∧ (s.countListen).we = s.we ∧
      (s.countListen).lp = s.lp ∧ (s.countListen).sl = s.sl ∧ (s.countListen).handed = s.handed ∧
      (s.countListen).free = s.free ∧ (s.countListen).pending = s.pending := by
  unfold State.countListen
  try dsimp only
  (repeat' split) <;> simp

@[simp] theorem State.countWait_frame (s : State) :
    (s.countWait).now = s.now ∧ (s.countWait).config = s.config ∧ (s.countWait).mu = s.mu ∧ (s.countWait).lc = s.lc ∧
      (s.countWait).tu = s.tu ∧ (s.countWait).fs = s.fs ∧ (s.countWait).we = s.we ∧ (s.countWait).lp = s.lp ∧
      (s.countWait).sl = s.sl ∧ (s.countWait).handed = s.handed ∧ (s.countWait).free = s.free ∧
      (s.countWait).pending = s.pending := by
  unfold State.countWait
  try dsimp only
  (repeat' split) <;> simp

@[simp] theorem State.fillBeacon_frame (s : State) :
    (s.fillBeacon).now = s.now ∧ (s.fillBeacon).config = s.config ∧ (s.fillBeacon).mu = s.mu ∧
      (s.fillBeacon).tu = s.tu ∧ (s.fillBeacon).cu = s.cu ∧ (s.fillBeacon).fs = s.fs ∧ (s.fillBeacon).we = s.we ∧
      (s.fillBeacon).lp = s.lp ∧ (s.fillBeacon).sl = s.sl ∧ (s.fillBeacon).handed = s.handed ∧
      (s.fillBeacon).free = s.free ∧ (s.fillBeacon).pending = s.pending := by
  unfold State.fillBeacon
  try dsimp only
  (repeat' split) <;> simp

@[simp] theorem State.handOn_frame (s : State) :
    (s.handOn).now = s.now ∧ (s.handOn).config = s.config ∧ (s.handOn).mu = s.mu ∧ (s.handOn).lc = s.lc ∧
      (s.handOn).tu = s.tu ∧ (s.handOn).cu = s.cu ∧ (s.handOn).fs = s.fs ∧ (s.handOn).we = s.we ∧
      (s.handOn).lp = s.lp ∧ (s.handOn).sl = s.sl ∧ (s.handOn).free = s.free ∧ (s.handOn).pending = s.pending := by
  unfold State.handOn
  try dsimp only
  (repeat' split) <;> simp

@[simp] theorem State.blankEndBody_frame (s : State) :
    (s.blankEndBody).now = s.now ∧ (s.blankEndBody).config = s.config ∧ (s.blankEndBody).mu = s.mu ∧
      (s.blankEndBody).lc = s.lc ∧ (s.blankEndBody).cu = s.cu ∧ (s.blankEndBody).fs = s.fs ∧
      (s.blankEndBody).we = s.we ∧ (s.blankEndBody).lp = s.lp ∧ (s.blankEndBody).sl = s.sl ∧
      (s.blankEndBody).handed = s.handed ∧ (s.blankEndBody).free = s.free ∧ (s.blankEndBody).pending = s.pending := by
  unfold State.blankEndBody
  try dsimp only
  (repeat' split) <;> simp

@[simp] theorem State.prsReleaseBody_frame (s : State) :
    (s.prsReleaseBody).now = s.now ∧ (s.prsReleaseBody).config = s.config ∧ (s.prsReleaseBody).mu = s.mu ∧
      (s.prsReleaseBody).lc = s.lc ∧ (s.prsReleaseBody).tu = s.tu ∧ (s.prsReleaseBody).cu = s.cu ∧
      (s.prsReleaseBody).fs = s.fs ∧ (s.prsReleaseBody).we = s.we ∧ (s.prsReleaseBody).sl = s.sl ∧
      (s.prsReleaseBody).handed = s.handed ∧ (s.prsReleaseBody).free = s.free ∧
      (s.prsReleaseBody).pending = s.pending := by
  unfold State.prsReleaseBody
  try dsimp only
  (repeat' split) <;> simp

@[simp] theorem State.clearRow_frame (s : State) (k : BankClear) :
    (s.clearRow k).now = s.now ∧ (s.clearRow k).config = s.config ∧ (s.clearRow k).mu = s.mu ∧
      (s.clearRow k).lc = s.lc ∧ (s.clearRow k).tu = s.tu ∧ (s.clearRow k).cu = s.cu ∧ (s.clearRow k).we = s.we ∧
      (s.clearRow k).lp = s.lp ∧ (s.clearRow k).sl = s.sl ∧ (s.clearRow k).handed = s.handed ∧
      (s.clearRow k).free = s.free ∧ (s.clearRow k).pending = s.pending := by
  unfold State.clearRow
  try dsimp only
  (repeat' split) <;> simp

@[simp] theorem State.bankClearRowBody_frame (s : State) :
    (s.bankClearRowBody).now = s.now ∧ (s.bankClearRowBody).config = s.config ∧ (s.bankClearRowBody).mu = s.mu ∧
      (s.bankClearRowBody).lc = s.lc ∧ (s.bankClearRowBody).tu = s.tu ∧ (s.bankClearRowBody).cu = s.cu ∧
      (s.bankClearRowBody).we = s.we ∧ (s.bankClearRowBody).lp = s.lp ∧ (s.bankClearRowBody).sl = s.sl ∧
      (s.bankClearRowBody).handed = s.handed ∧ (s.bankClearRowBody).free = s.free ∧
      (s.bankClearRowBody).pending = s.pending := by
  unfold State.bankClearRowBody
  try dsimp only
  (repeat' split) <;> simp

@[simp] theorem State.streamTold_frame (s : State) :
    (s.streamTold).now = s.now ∧ (s.streamTold).config = s.config ∧ (s.streamTold).mu = s.mu ∧
      (s.streamTold).tu = s.tu ∧ (s.streamTold).cu = s.cu ∧ (s.streamTold).fs = s.fs ∧ (s.streamTold).lp = s.lp ∧
      (s.streamTold).sl = s.sl ∧ (s.streamTold).handed = s.handed ∧ (s.streamTold).free = s.free ∧
      (s.streamTold).pending = s.pending := by
  unfold State.streamTold
  try dsimp only
  (repeat' split) <;> simp

@[simp] theorem State.fillTold_frame (s : State) :
    (s.fillTold).now = s.now ∧ (s.fillTold).config = s.config ∧ (s.fillTold).mu = s.mu ∧ (s.fillTold).lc = s.lc ∧
      (s.fillTold).tu = s.tu ∧ (s.fillTold).cu = s.cu ∧ (s.fillTold).fs = s.fs ∧ (s.fillTold).lp = s.lp ∧
      (s.fillTold).sl = s.sl ∧ (s.fillTold).handed = s.handed ∧ (s.fillTold).free = s.free ∧
      (s.fillTold).pending = s.pending := by
  unfold State.fillTold
  try dsimp only
  (repeat' split) <;> simp

@[simp] theorem State.inboundTold_frame (s : State) :
    (s.inboundTold).now = s.now ∧ (s.inboundTold).config = s.config ∧ (s.inboundTold).mu = s.mu ∧
      (s.inboundTold).lc = s.lc ∧ (s.inboundTold).tu = s.tu ∧ (s.inboundTold).cu = s.cu ∧ (s.inboundTold).we = s.we ∧
      (s.inboundTold).lp = s.lp ∧ (s.inboundTold).sl = s.sl ∧ (s.inboundTold).handed = s.handed ∧
      (s.inboundTold).free = s.free ∧ (s.inboundTold).pending = s.pending := by
  unfold State.inboundTold
  try dsimp only
  (repeat' split) <;> simp

@[simp] theorem State.carried_frame (s : State) (row : Nat) :
    (s.carried row).now = s.now ∧ (s.carried row).config = s.config ∧ (s.carried row).mu = s.mu ∧
      (s.carried row).lc = s.lc ∧ (s.carried row).tu = s.tu ∧ (s.carried row).cu = s.cu ∧ (s.carried row).we = s.we ∧
      (s.carried row).lp = s.lp ∧ (s.carried row).sl = s.sl ∧ (s.carried row).handed = s.handed ∧
      (s.carried row).free = s.free ∧ (s.carried row).pending = s.pending := by
  unfold State.carried
  try dsimp only
  (repeat' split) <;> simp

@[simp] theorem State.tell_frame (s : State) (o : Operation) :
    (s.tell o).now = s.now ∧ (s.tell o).config = s.config ∧ (s.tell o).mu = s.mu ∧ (s.tell o).tu = s.tu ∧
      (s.tell o).cu = s.cu ∧ (s.tell o).lp = s.lp ∧ (s.tell o).sl = s.sl ∧ (s.tell o).handed = s.handed ∧
      (s.tell o).free = s.free ∧ (s.tell o).pending = s.pending := by
  unfold State.tell
  try dsimp only
  (repeat' split) <;> simp

@[simp] theorem State.landOperation_frame (s : State) (o : Operation) :
    (s.landOperation o).now = s.now ∧ (s.landOperation o).config = s.config ∧ (s.landOperation o).mu = s.mu ∧
      (s.landOperation o).lc = s.lc ∧ (s.landOperation o).tu = s.tu ∧ (s.landOperation o).cu = s.cu ∧
      (s.landOperation o).we = s.we ∧ (s.landOperation o).lp = s.lp ∧ (s.landOperation o).sl = s.sl ∧
      (s.landOperation o).handed = s.handed ∧ (s.landOperation o).free = s.free ∧
      (s.landOperation o).pending = s.pending := by
  unfold State.landOperation
  try dsimp only
  (repeat' split) <;> simp

@[simp] theorem State.beginWrite_frame (s : State) (o : Operation) :
    (s.beginWrite o).now = s.now ∧ (s.beginWrite o).config = s.config ∧ (s.beginWrite o).mu = s.mu ∧
      (s.beginWrite o).lc = s.lc ∧ (s.beginWrite o).tu = s.tu ∧ (s.beginWrite o).cu = s.cu ∧
      (s.beginWrite o).we = s.we ∧ (s.beginWrite o).lp = s.lp ∧ (s.beginWrite o).sl = s.sl ∧
      (s.beginWrite o).handed = s.handed ∧ (s.beginWrite o).free = s.free ∧ (s.beginWrite o).pending = s.pending := by
  unfold State.beginWrite
  try dsimp only
  (repeat' split) <;> simp

@[simp] theorem State.setMembers_frame (s : State) (m : StationSet) :
    (s.setMembers m).now = s.now ∧ (s.setMembers m).config = s.config ∧ (s.setMembers m).lc = s.lc ∧
      (s.setMembers m).tu = s.tu ∧ (s.setMembers m).cu = s.cu ∧ (s.setMembers m).fs = s.fs ∧
      (s.setMembers m).we = s.we ∧ (s.setMembers m).lp = s.lp ∧ (s.setMembers m).sl = s.sl ∧
      (s.setMembers m).handed = s.handed ∧ (s.setMembers m).free = s.free ∧ (s.setMembers m).pending = s.pending := by
  unfold State.setMembers
  try dsimp only
  (repeat' split) <;> simp

@[simp] theorem State.reportForeign_frame (s : State) (x : Station) :
    (s.reportForeign x).now = s.now ∧ (s.reportForeign x).config = s.config ∧ (s.reportForeign x).lc = s.lc ∧
      (s.reportForeign x).tu = s.tu ∧ (s.reportForeign x).cu = s.cu ∧ (s.reportForeign x).fs = s.fs ∧
      (s.reportForeign x).we = s.we ∧ (s.reportForeign x).sl = s.sl ∧ (s.reportForeign x).handed = s.handed ∧
      (s.reportForeign x).free = s.free ∧ (s.reportForeign x).pending = s.pending := by
  unfold State.reportForeign
  try dsimp only
  (repeat' split) <;> simp

@[simp] theorem State.lose_frame (s : State) (m : StationSet) :
    (s.lose m).now = s.now ∧ (s.lose m).config = s.config ∧ (s.lose m).tu = s.tu ∧ (s.lose m).fs = s.fs ∧
      (s.lose m).sl = s.sl ∧ (s.lose m).handed = s.handed ∧ (s.lose m).free = s.free ∧ (s.lose m).pending = s.pending := by
  unfold State.lose
  try dsimp only
  (repeat' split) <;> simp

@[simp] theorem State.rejoin_frame (s : State) (x : Station) (k : Completing) :
    (s.rejoin x k).now = s.now ∧ (s.rejoin x k).config = s.config ∧ (s.rejoin x k).mu = s.mu ∧
      (s.rejoin x k).tu = s.tu ∧ (s.rejoin x k).fs = s.fs ∧ (s.rejoin x k).we = s.we ∧ (s.rejoin x k).lp = s.lp ∧
      (s.rejoin x k).sl = s.sl ∧ (s.rejoin x k).handed = s.handed ∧ (s.rejoin x k).free = s.free ∧
      (s.rejoin x k).pending = s.pending := by
  unfold State.rejoin
  try dsimp only
  (repeat' split) <;> simp

@[simp] theorem State.learnJoin_frame (s : State) (x : Station) (k : Completing) :
    (s.learnJoin x k).now = s.now ∧ (s.learnJoin x k).config = s.config ∧ (s.learnJoin x k).tu = s.tu ∧
      (s.learnJoin x k).fs = s.fs ∧ (s.learnJoin x k).we = s.we ∧ (s.learnJoin x k).lp = s.lp ∧
      (s.learnJoin x k).sl = s.sl ∧ (s.learnJoin x k).handed = s.handed ∧ (s.learnJoin x k).free = s.free ∧
      (s.learnJoin x k).pending = s.pending := by
  unfold State.learnJoin
  try dsimp only
  (repeat' split) <;> simp

@[simp] theorem State.admitMember_frame (s : State) (x : Station) (k : Completing) :
    (s.admitMember x k).now = s.now ∧ (s.admitMember x k).config = s.config ∧ (s.admitMember x k).tu = s.tu ∧
      (s.admitMember x k).fs = s.fs ∧ (s.admitMember x k).we = s.we ∧ (s.admitMember x k).sl = s.sl ∧
      (s.admitMember x k).handed = s.handed ∧ (s.admitMember x k).free = s.free ∧
      (s.admitMember x k).pending = s.pending := by
  unfold State.admitMember
  try dsimp only
  (repeat' split) <;> simp

@[simp] theorem State.applyJoin_frame (s : State) (x : Station) (b : JoinBody) :
    (s.applyJoin x b).now = s.now ∧ (s.applyJoin x b).config = s.config ∧ (s.applyJoin x b).sl = s.sl ∧
      (s.applyJoin x b).pending = s.pending := by
  unfold State.applyJoin
  try dsimp only
  (repeat' split) <;> simp

@[simp] theorem State.foundWall_frame (s : State) :
    (s.foundWall).now = s.now ∧ (s.foundWall).config = s.config ∧ (s.foundWall).lc = s.lc ∧ (s.foundWall).fs = s.fs ∧
      (s.foundWall).we = s.we ∧ (s.foundWall).sl = s.sl ∧ (s.foundWall).handed = s.handed ∧
      (s.foundWall).free = s.free ∧ (s.foundWall).pending = s.pending := by
  unfold State.foundWall
  try dsimp only
  (repeat' split) <;> simp

@[simp] theorem State.becomeMember_frame (s : State) (k : Completing) :
    (s.becomeMember k).now = s.now ∧ (s.becomeMember k).config = s.config ∧ (s.becomeMember k).tu = s.tu ∧
      (s.becomeMember k).fs = s.fs ∧ (s.becomeMember k).we = s.we ∧ (s.becomeMember k).sl = s.sl ∧
      (s.becomeMember k).handed = s.handed ∧ (s.becomeMember k).free = s.free ∧
      (s.becomeMember k).pending = s.pending := by
  unfold State.becomeMember
  try dsimp only
  (repeat' split) <;> simp

@[simp] theorem State.applyOwnJoin_frame (s : State) (k : Completing) :
    (s.applyOwnJoin k).now = s.now ∧ (s.applyOwnJoin k).config = s.config ∧ (s.applyOwnJoin k).fs = s.fs ∧
      (s.applyOwnJoin k).we = s.we ∧ (s.applyOwnJoin k).sl = s.sl ∧ (s.applyOwnJoin k).handed = s.handed ∧
      (s.applyOwnJoin k).free = s.free ∧ (s.applyOwnJoin k).pending = s.pending := by
  unfold State.applyOwnJoin
  try dsimp only
  (repeat' split) <;> simp

@[simp] theorem State.settleJoin_frame (s : State) :
    (s.settleJoin).now = s.now ∧ (s.settleJoin).config = s.config ∧ (s.settleJoin).we = s.we ∧
      (s.settleJoin).sl = s.sl ∧ (s.settleJoin).free = s.free ∧ (s.settleJoin).pending = s.pending := by
  unfold State.settleJoin
  try dsimp only
  (repeat' split) <;> simp

@[simp] theorem State.applyLeave_frame (s : State) (x : Station) (k : Completing) :
    (s.applyLeave x k).now = s.now ∧ (s.applyLeave x k).config = s.config ∧ (s.applyLeave x k).tu = s.tu ∧
      (s.applyLeave x k).fs = s.fs ∧ (s.applyLeave x k).sl = s.sl ∧ (s.applyLeave x k).handed = s.handed ∧
      (s.applyLeave x k).free = s.free ∧ (s.applyLeave x k).pending = s.pending := by
  unfold State.applyLeave
  try dsimp only
  (repeat' split) <;> simp

@[simp] theorem State.reportDropped_frame (s : State) (m : StationSet) (e : Epoch) :
    (s.reportDropped m e).now = s.now ∧ (s.reportDropped m e).config = s.config ∧ (s.reportDropped m e).mu = s.mu ∧
      (s.reportDropped m e).lc = s.lc ∧ (s.reportDropped m e).tu = s.tu ∧ (s.reportDropped m e).cu = s.cu ∧
      (s.reportDropped m e).fs = s.fs ∧ (s.reportDropped m e).we = s.we ∧ (s.reportDropped m e).sl = s.sl ∧
      (s.reportDropped m e).handed = s.handed ∧ (s.reportDropped m e).free = s.free ∧
      (s.reportDropped m e).pending = s.pending := by
  unfold State.reportDropped
  try dsimp only
  (repeat' split) <;> simp

@[simp] theorem State.applyDrop_frame (s : State) (b : DropBody) :
    (s.applyDrop b).now = s.now ∧ (s.applyDrop b).config = s.config ∧ (s.applyDrop b).sl = s.sl ∧
      (s.applyDrop b).pending = s.pending := by
  unfold State.applyDrop
  try dsimp only
  (repeat' split) <;> simp

@[simp] theorem State.ownReadyApplied_frame (s : State) (x : Station) :
    (s.ownReadyApplied x).now = s.now ∧ (s.ownReadyApplied x).config = s.config ∧ (s.ownReadyApplied x).mu = s.mu ∧
      (s.ownReadyApplied x).lc = s.lc ∧ (s.ownReadyApplied x).tu = s.tu ∧ (s.ownReadyApplied x).fs = s.fs ∧
      (s.ownReadyApplied x).we = s.we ∧ (s.ownReadyApplied x).lp = s.lp ∧ (s.ownReadyApplied x).sl = s.sl ∧
      (s.ownReadyApplied x).handed = s.handed ∧ (s.ownReadyApplied x).free = s.free ∧
      (s.ownReadyApplied x).pending = s.pending := by
  unfold State.ownReadyApplied
  try dsimp only
  (repeat' split) <;> simp

@[simp] theorem State.applyReady_frame (s : State) (x : Station) (b : ReadyBody) :
    (s.applyReady x b).now = s.now ∧ (s.applyReady x b).config = s.config ∧ (s.applyReady x b).mu = s.mu ∧
      (s.applyReady x b).tu = s.tu ∧ (s.applyReady x b).fs = s.fs ∧ (s.applyReady x b).we = s.we ∧
      (s.applyReady x b).lp = s.lp ∧ (s.applyReady x b).sl = s.sl ∧ (s.applyReady x b).handed = s.handed ∧
      (s.applyReady x b).free = s.free ∧ (s.applyReady x b).pending = s.pending := by
  unfold State.applyReady
  try dsimp only
  (repeat' split) <;> simp

@[simp] theorem State.adoptSource_frame (s : State) (x : Station) :
    (s.adoptSource x).now = s.now ∧ (s.adoptSource x).config = s.config ∧ (s.adoptSource x).mu = s.mu ∧
      (s.adoptSource x).lc = s.lc ∧ (s.adoptSource x).cu = s.cu ∧ (s.adoptSource x).fs = s.fs ∧
      (s.adoptSource x).we = s.we ∧ (s.adoptSource x).sl = s.sl ∧ (s.adoptSource x).handed = s.handed ∧
      (s.adoptSource x).free = s.free ∧ (s.adoptSource x).pending = s.pending := by
  unfold State.adoptSource
  try dsimp only
  (repeat' split) <;> simp

@[simp] theorem State.withdrawBeacon_frame (s : State) (x : Station) :
    (s.withdrawBeacon x).now = s.now ∧ (s.withdrawBeacon x).config = s.config ∧ (s.withdrawBeacon x).mu = s.mu ∧
      (s.withdrawBeacon x).tu = s.tu ∧ (s.withdrawBeacon x).cu = s.cu ∧ (s.withdrawBeacon x).fs = s.fs ∧
      (s.withdrawBeacon x).we = s.we ∧ (s.withdrawBeacon x).lp = s.lp ∧ (s.withdrawBeacon x).sl = s.sl ∧
      (s.withdrawBeacon x).handed = s.handed ∧ (s.withdrawBeacon x).free = s.free ∧
      (s.withdrawBeacon x).pending = s.pending := by
  unfold State.withdrawBeacon
  try dsimp only
  (repeat' split) <;> simp

@[simp] theorem State.adoptTiming_frame (s : State) (x : Station) (b : BeaconBody) :
    (s.adoptTiming x b).now = s.now ∧ (s.adoptTiming x b).config = s.config ∧ (s.adoptTiming x b).mu = s.mu ∧
      (s.adoptTiming x b).cu = s.cu ∧ (s.adoptTiming x b).fs = s.fs ∧ (s.adoptTiming x b).we = s.we ∧
      (s.adoptTiming x b).sl = s.sl ∧ (s.adoptTiming x b).handed = s.handed ∧ (s.adoptTiming x b).free = s.free ∧
      (s.adoptTiming x b).pending = s.pending := by
  unfold State.adoptTiming
  try dsimp only
  (repeat' split) <;> simp

@[simp] theorem State.adoptMembers_frame (s : State) (b : BeaconBody) :
    (s.adoptMembers b).now = s.now ∧ (s.adoptMembers b).config = s.config ∧ (s.adoptMembers b).tu = s.tu ∧
      (s.adoptMembers b).cu = s.cu ∧ (s.adoptMembers b).fs = s.fs ∧ (s.adoptMembers b).sl = s.sl ∧
      (s.adoptMembers b).handed = s.handed ∧ (s.adoptMembers b).free = s.free ∧
      (s.adoptMembers b).pending = s.pending := by
  unfold State.adoptMembers
  try dsimp only
  (repeat' split) <;> simp

@[simp] theorem State.adoptSlots_frame (s : State) (r : Record) (kept : Bool) :
    (s.adoptSlots r kept).now = s.now ∧ (s.adoptSlots r kept).config = s.config ∧ (s.adoptSlots r kept).mu = s.mu ∧
      (s.adoptSlots r kept).tu = s.tu ∧ (s.adoptSlots r kept).cu = s.cu ∧ (s.adoptSlots r kept).fs = s.fs ∧
      (s.adoptSlots r kept).we = s.we ∧ (s.adoptSlots r kept).lp = s.lp ∧ (s.adoptSlots r kept).sl = s.sl ∧
      (s.adoptSlots r kept).handed = s.handed ∧ (s.adoptSlots r kept).free = s.free ∧
      (s.adoptSlots r kept).pending = s.pending := by
  unfold State.adoptSlots
  try dsimp only
  (repeat' split) <;> simp

@[simp] theorem State.adoptRecord_frame (s : State) (b : BeaconBody) :
    (s.adoptRecord b).now = s.now ∧ (s.adoptRecord b).config = s.config ∧ (s.adoptRecord b).mu = s.mu ∧
      (s.adoptRecord b).tu = s.tu ∧ (s.adoptRecord b).fs = s.fs ∧ (s.adoptRecord b).we = s.we ∧
      (s.adoptRecord b).lp = s.lp ∧ (s.adoptRecord b).sl = s.sl ∧ (s.adoptRecord b).handed = s.handed ∧
      (s.adoptRecord b).free = s.free ∧ (s.adoptRecord b).pending = s.pending := by
  unfold State.adoptRecord
  try dsimp only
  (repeat' split) <;> simp

@[simp] theorem State.adoptInbound_frame (s : State) (old : Option Epoch) :
    (s.adoptInbound old).now = s.now ∧ (s.adoptInbound old).config = s.config ∧ (s.adoptInbound old).mu = s.mu ∧
      (s.adoptInbound old).lc = s.lc ∧ (s.adoptInbound old).tu = s.tu ∧ (s.adoptInbound old).cu = s.cu ∧
      (s.adoptInbound old).we = s.we ∧ (s.adoptInbound old).sl = s.sl ∧ (s.adoptInbound old).handed = s.handed ∧
      (s.adoptInbound old).free = s.free ∧ (s.adoptInbound old).pending = s.pending := by
  unfold State.adoptInbound
  try dsimp only
  (repeat' split) <;> simp

@[simp] theorem State.reportSlip_frame (s : State) (before : State) :
    (s.reportSlip before).now = s.now ∧ (s.reportSlip before).config = s.config ∧ (s.reportSlip before).mu = s.mu ∧
      (s.reportSlip before).lc = s.lc ∧ (s.reportSlip before).tu = s.tu ∧ (s.reportSlip before).cu = s.cu ∧
      (s.reportSlip before).fs = s.fs ∧ (s.reportSlip before).we = s.we ∧ (s.reportSlip before).sl = s.sl ∧
      (s.reportSlip before).handed = s.handed ∧ (s.reportSlip before).free = s.free ∧
      (s.reportSlip before).pending = s.pending := by
  unfold State.reportSlip
  try dsimp only
  (repeat' split) <;> simp

@[simp] theorem State.adopt_frame (s : State) (x : Station) (b : BeaconBody) :
    (s.adopt x b).now = s.now ∧ (s.adopt x b).config = s.config ∧ (s.adopt x b).sl = s.sl ∧
      (s.adopt x b).handed = s.handed ∧ (s.adopt x b).free = s.free ∧ (s.adopt x b).pending = s.pending := by
  unfold State.adopt
  try dsimp only
  (repeat' split) <;> simp

@[simp] theorem State.applyBeacon_frame (s : State) (x : Station) (b : BeaconBody) :
    (s.applyBeacon x b).now = s.now ∧ (s.applyBeacon x b).config = s.config ∧ (s.applyBeacon x b).sl = s.sl ∧
      (s.applyBeacon x b).pending = s.pending := by
  unfold State.applyBeacon
  try dsimp only
  (repeat' split) <;> simp

@[simp] theorem State.linkIdleBody_frame (s : State) :
    (s.linkIdleBody).now = s.now ∧ (s.linkIdleBody).config = s.config ∧ (s.linkIdleBody).mu = s.mu ∧
      (s.linkIdleBody).tu = s.tu ∧ (s.linkIdleBody).cu = s.cu ∧ (s.linkIdleBody).fs = s.fs ∧
      (s.linkIdleBody).we = s.we ∧ (s.linkIdleBody).lp = s.lp ∧ (s.linkIdleBody).sl = s.sl ∧
      (s.linkIdleBody).handed = s.handed ∧ (s.linkIdleBody).free = s.free ∧ (s.linkIdleBody).pending = s.pending := by
  unfold State.linkIdleBody
  try dsimp only
  (repeat' split) <;> simp

@[simp] theorem State.seeStart_frame (s : State) (a : Option Attempt) :
    (s.seeStart a).now = s.now ∧ (s.seeStart a).config = s.config ∧ (s.seeStart a).mu = s.mu ∧
      (s.seeStart a).cu = s.cu ∧ (s.seeStart a).fs = s.fs ∧ (s.seeStart a).we = s.we ∧ (s.seeStart a).lp = s.lp ∧
      (s.seeStart a).sl = s.sl ∧ (s.seeStart a).handed = s.handed ∧ (s.seeStart a).pending = s.pending := by
  unfold State.seeStart
  try dsimp only
  (repeat' split) <;> simp

@[simp] theorem State.frameCutShortBody_frame (b : Bool) (s : State) :
    (s.frameCutShortBody b).now = s.now ∧ (s.frameCutShortBody b).config = s.config ∧
      (s.frameCutShortBody b).sl = s.sl ∧ (s.frameCutShortBody b).pending = s.pending := by
  unfold State.frameCutShortBody
  try dsimp only
  (repeat' split) <;> simp

@[simp] theorem State.setAddressee_frame (s : State) (x : Station) (r : Retry) :
    (s.setAddressee x r).now = s.now ∧ (s.setAddressee x r).config = s.config ∧ (s.setAddressee x r).mu = s.mu ∧
      (s.setAddressee x r).tu = s.tu ∧ (s.setAddressee x r).cu = s.cu ∧ (s.setAddressee x r).fs = s.fs ∧
      (s.setAddressee x r).we = s.we ∧ (s.setAddressee x r).lp = s.lp ∧ (s.setAddressee x r).sl = s.sl ∧
      (s.setAddressee x r).handed = s.handed ∧ (s.setAddressee x r).free = s.free ∧
      (s.setAddressee x r).pending = s.pending := by
  unfold State.setAddressee
  try dsimp only
  (repeat' split) <;> simp

@[simp] theorem State.placeEntry_frame (s : State) (x : Station) (b : PaintBody) :
    (s.placeEntry x b).now = s.now ∧ (s.placeEntry x b).config = s.config ∧ (s.placeEntry x b).mu = s.mu ∧
      (s.placeEntry x b).lc = s.lc ∧ (s.placeEntry x b).tu = s.tu ∧ (s.placeEntry x b).cu = s.cu ∧
      (s.placeEntry x b).we = s.we ∧ (s.placeEntry x b).sl = s.sl ∧ (s.placeEntry x b).handed = s.handed ∧
      (s.placeEntry x b).free = s.free ∧ (s.placeEntry x b).pending = s.pending := by
  unfold State.placeEntry
  try dsimp only
  (repeat' split) <;> simp

@[simp] theorem State.deliver_frame (s : State) (x : Station) (took : Bool) (b : Body) :
    (s.deliver x took b).now = s.now ∧ (s.deliver x took b).config = s.config ∧ (s.deliver x took b).sl = s.sl ∧
      (s.deliver x took b).pending = s.pending := by
  unfold State.deliver
  try dsimp only
  (repeat' split) <;> simp

@[simp] theorem State.joiningConflict_frame (s : State) (b : Bool) :
    (s.joiningConflict b).now = s.now ∧ (s.joiningConflict b).config = s.config ∧ (s.joiningConflict b).sl = s.sl ∧
      (s.joiningConflict b).pending = s.pending := by
  unfold State.joiningConflict
  try dsimp only
  (repeat' split) <;> simp

@[simp] theorem State.hear_frame (s : State) (k : FrameKind) (e : FrameEnd) (v : SlotView) :
    (s.hear k e v).now = s.now ∧ (s.hear k e v).config = s.config ∧ (s.hear k e v).sl = s.sl ∧
      (s.hear k e v).pending = s.pending := by
  unfold State.hear
  try dsimp only
  (repeat' split) <;> simp

@[simp] theorem State.observe_frame (s : State) (k : FrameKind) (e : FrameEnd) :
    (s.observe k e).now = s.now ∧ (s.observe k e).config = s.config ∧ (s.observe k e).lc = s.lc ∧
      (s.observe k e).tu = s.tu ∧ (s.observe k e).cu = s.cu ∧ (s.observe k e).fs = s.fs ∧ (s.observe k e).we = s.we ∧
      (s.observe k e).sl = s.sl ∧ (s.observe k e).handed = s.handed ∧ (s.observe k e).free = s.free ∧
      (s.observe k e).pending = s.pending := by
  unfold State.observe
  try dsimp only
  (repeat' split) <;> simp

@[simp] theorem State.receive_frame (s : State) (k : FrameKind) (e : FrameEnd) (v : SlotView) :
    (s.receive k e v).now = s.now ∧ (s.receive k e v).config = s.config ∧ (s.receive k e v).sl = s.sl ∧
      (s.receive k e v).pending = s.pending := by
  unfold State.receive
  try dsimp only
  (repeat' split) <;> simp

@[simp] theorem State.holdSlot_frame (s : State) (c : ControlSlot) :
    (s.holdSlot c).now = s.now ∧ (s.holdSlot c).config = s.config ∧ (s.holdSlot c).mu = s.mu ∧
      (s.holdSlot c).tu = s.tu ∧ (s.holdSlot c).cu = s.cu ∧ (s.holdSlot c).fs = s.fs ∧ (s.holdSlot c).we = s.we ∧
      (s.holdSlot c).lp = s.lp ∧ (s.holdSlot c).sl = s.sl ∧ (s.holdSlot c).handed = s.handed ∧
      (s.holdSlot c).free = s.free ∧ (s.holdSlot c).pending = s.pending := by
  unfold State.holdSlot
  try dsimp only
  (repeat' split) <;> simp

@[simp] theorem State.emptySlot_frame (s : State) (c : ControlSlot) :
    (s.emptySlot c).now = s.now ∧ (s.emptySlot c).config = s.config ∧ (s.emptySlot c).mu = s.mu ∧
      (s.emptySlot c).tu = s.tu ∧ (s.emptySlot c).cu = s.cu ∧ (s.emptySlot c).fs = s.fs ∧ (s.emptySlot c).we = s.we ∧
      (s.emptySlot c).lp = s.lp ∧ (s.emptySlot c).sl = s.sl ∧ (s.emptySlot c).handed = s.handed ∧
      (s.emptySlot c).free = s.free ∧ (s.emptySlot c).pending = s.pending := by
  unfold State.emptySlot
  try dsimp only
  (repeat' split) <;> simp

@[simp] theorem State.ownBeacon_frame (s : State) (f : WireFrame) (v : Verdict) :
    (s.ownBeacon f v).now = s.now ∧ (s.ownBeacon f v).config = s.config ∧ (s.ownBeacon f v).sl = s.sl ∧
      (s.ownBeacon f v).pending = s.pending := by
  unfold State.ownBeacon
  try dsimp only
  (repeat' split) <;> simp

@[simp] theorem State.ownLeave_frame (s : State) (v : Verdict) :
    (s.ownLeave v).now = s.now ∧ (s.ownLeave v).config = s.config ∧ (s.ownLeave v).sl = s.sl ∧
      (s.ownLeave v).pending = s.pending := by
  unfold State.ownLeave
  try dsimp only
  (repeat' split) <;> simp

@[simp] theorem State.ownJoin_frame (s : State) (f : WireFrame) (v : Verdict) :
    (s.ownJoin f v).now = s.now ∧ (s.ownJoin f v).config = s.config ∧ (s.ownJoin f v).we = s.we ∧
      (s.ownJoin f v).sl = s.sl ∧ (s.ownJoin f v).free = s.free ∧ (s.ownJoin f v).pending = s.pending := by
  unfold State.ownJoin
  try dsimp only
  (repeat' split) <;> simp

@[simp] theorem State.ownReady_frame (s : State) (f : WireFrame) (v : Verdict) :
    (s.ownReady f v).now = s.now ∧ (s.ownReady f v).config = s.config ∧ (s.ownReady f v).mu = s.mu ∧
      (s.ownReady f v).tu = s.tu ∧ (s.ownReady f v).fs = s.fs ∧ (s.ownReady f v).we = s.we ∧
      (s.ownReady f v).lp = s.lp ∧ (s.ownReady f v).sl = s.sl ∧ (s.ownReady f v).handed = s.handed ∧
      (s.ownReady f v).free = s.free ∧ (s.ownReady f v).pending = s.pending := by
  unfold State.ownReady
  try dsimp only
  (repeat' split) <;> simp

@[simp] theorem State.reportAlone_frame (s : State) :
    (s.reportAlone).now = s.now ∧ (s.reportAlone).config = s.config ∧ (s.reportAlone).mu = s.mu ∧
      (s.reportAlone).lc = s.lc ∧ (s.reportAlone).tu = s.tu ∧ (s.reportAlone).cu = s.cu ∧ (s.reportAlone).fs = s.fs ∧
      (s.reportAlone).we = s.we ∧ (s.reportAlone).sl = s.sl ∧ (s.reportAlone).handed = s.handed ∧
      (s.reportAlone).free = s.free ∧ (s.reportAlone).pending = s.pending := by
  unfold State.reportAlone
  try dsimp only
  (repeat' split) <;> simp

@[simp] theorem State.ownDrop_frame (s : State) (f : WireFrame) (v : Verdict) :
    (s.ownDrop f v).now = s.now ∧ (s.ownDrop f v).config = s.config ∧ (s.ownDrop f v).sl = s.sl ∧
      (s.ownDrop f v).pending = s.pending := by
  unfold State.ownDrop
  try dsimp only
  (repeat' split) <;> simp

@[simp] theorem State.removeHead_frame (s : State) (x : Station) :
    (s.removeHead x).now = s.now ∧ (s.removeHead x).config = s.config ∧ (s.removeHead x).mu = s.mu ∧
      (s.removeHead x).tu = s.tu ∧ (s.removeHead x).cu = s.cu ∧ (s.removeHead x).fs = s.fs ∧
      (s.removeHead x).we = s.we ∧ (s.removeHead x).lp = s.lp ∧ (s.removeHead x).sl = s.sl ∧
      (s.removeHead x).handed = s.handed ∧ (s.removeHead x).free = s.free ∧ (s.removeHead x).pending = s.pending := by
  unfold State.removeHead
  try dsimp only
  (repeat' split) <;> simp

@[simp] theorem State.giveUp_frame (s : State) (e : OutEntry) :
    (s.giveUp e).now = s.now ∧ (s.giveUp e).config = s.config ∧ (s.giveUp e).mu = s.mu ∧ (s.giveUp e).tu = s.tu ∧
      (s.giveUp e).cu = s.cu ∧ (s.giveUp e).fs = s.fs ∧ (s.giveUp e).we = s.we ∧ (s.giveUp e).sl = s.sl ∧
      (s.giveUp e).handed = s.handed ∧ (s.giveUp e).free = s.free ∧ (s.giveUp e).pending = s.pending := by
  unfold State.giveUp
  try dsimp only
  (repeat' split) <;> simp

@[simp] theorem State.ownEntry_frame (s : State) (e : OutEntry) (v : Verdict) :
    (s.ownEntry e v).now = s.now ∧ (s.ownEntry e v).config = s.config ∧ (s.ownEntry e v).mu = s.mu ∧
      (s.ownEntry e v).tu = s.tu ∧ (s.ownEntry e v).cu = s.cu ∧ (s.ownEntry e v).fs = s.fs ∧
      (s.ownEntry e v).we = s.we ∧ (s.ownEntry e v).sl = s.sl ∧ (s.ownEntry e v).handed = s.handed ∧
      (s.ownEntry e v).free = s.free ∧ (s.ownEntry e v).pending = s.pending := by
  unfold State.ownEntry
  try dsimp only
  (repeat' split) <;> simp

@[simp] theorem State.ownFrame_frame (s : State) (a : Attempt) (e : FrameEnd) :
    (s.ownFrame a e).now = s.now ∧ (s.ownFrame a e).config = s.config ∧ (s.ownFrame a e).sl = s.sl ∧
      (s.ownFrame a e).pending = s.pending := by
  unfold State.ownFrame
  try dsimp only
  (repeat' split) <;> simp

@[simp] theorem State.failLoad_frame (s : State) (r : FaultReason) :
    (s.failLoad r).now = s.now ∧ (s.failLoad r).config = s.config ∧ (s.failLoad r).lc = s.lc ∧
      (s.failLoad r).tu = s.tu ∧ (s.failLoad r).cu = s.cu ∧ (s.failLoad r).fs = s.fs ∧ (s.failLoad r).we = s.we ∧
      (s.failLoad r).handed = s.handed ∧ (s.failLoad r).free = s.free ∧ (s.failLoad r).pending = s.pending := by
  unfold State.failLoad
  try dsimp only
  (repeat' split) <;> simp

@[simp] theorem State.load_frame (s : State) (c : Configuration) :
    (s.load c).now = s.now ∧ (s.load c).lp = s.lp ∧ (s.load c).free = s.free ∧ (s.load c).pending = s.pending := by
  unfold State.load
  try dsimp only
  (repeat' split) <;> simp

@[simp] theorem State.conclude_frame (s : State) (v : Except FaultReason Configuration) :
    (s.conclude v).now = s.now ∧ (s.conclude v).free = s.free ∧ (s.conclude v).pending = s.pending := by
  unfold State.conclude
  try dsimp only
  (repeat' split) <;> simp

@[simp] theorem State.setLoader_frame (s : State) (l : Loader) :
    (s.setLoader l).now = s.now ∧ (s.setLoader l).config = s.config ∧ (s.setLoader l).mu = s.mu ∧
      (s.setLoader l).lc = s.lc ∧ (s.setLoader l).tu = s.tu ∧ (s.setLoader l).cu = s.cu ∧ (s.setLoader l).fs = s.fs ∧
      (s.setLoader l).we = s.we ∧ (s.setLoader l).lp = s.lp ∧ (s.setLoader l).handed = s.handed ∧
      (s.setLoader l).free = s.free ∧ (s.setLoader l).pending = s.pending := by
  unfold State.setLoader
  try dsimp only
  (repeat' split) <;> simp

@[simp] theorem State.failAttempt_frame (s : State) (n : Nat) :
    (s.failAttempt n).now = s.now ∧ (s.failAttempt n).config = s.config ∧ (s.failAttempt n).lc = s.lc ∧
      (s.failAttempt n).tu = s.tu ∧ (s.failAttempt n).cu = s.cu ∧ (s.failAttempt n).fs = s.fs ∧
      (s.failAttempt n).we = s.we ∧ (s.failAttempt n).lp = s.lp ∧ (s.failAttempt n).handed = s.handed ∧
      (s.failAttempt n).free = s.free ∧ (s.failAttempt n).pending = s.pending := by
  unfold State.failAttempt
  try dsimp only
  (repeat' split) <;> simp

@[simp] theorem State.eepromExpiryBody_frame (s : State) :
    (s.eepromExpiryBody).now = s.now ∧ (s.eepromExpiryBody).config = s.config ∧ (s.eepromExpiryBody).mu = s.mu ∧
      (s.eepromExpiryBody).lc = s.lc ∧ (s.eepromExpiryBody).tu = s.tu ∧ (s.eepromExpiryBody).cu = s.cu ∧
      (s.eepromExpiryBody).fs = s.fs ∧ (s.eepromExpiryBody).we = s.we ∧ (s.eepromExpiryBody).lp = s.lp ∧
      (s.eepromExpiryBody).handed = s.handed ∧ (s.eepromExpiryBody).free = s.free ∧
      (s.eepromExpiryBody).pending = s.pending := by
  unfold State.eepromExpiryBody
  try dsimp only
  (repeat' split) <;> simp

@[simp] theorem State.readEventReleaseBody_frame (s : State) (n : Nat) :
    (s.readEventReleaseBody n).now = s.now ∧ (s.readEventReleaseBody n).config = s.config ∧
      (s.readEventReleaseBody n).mu = s.mu ∧ (s.readEventReleaseBody n).lc = s.lc ∧
      (s.readEventReleaseBody n).tu = s.tu ∧ (s.readEventReleaseBody n).cu = s.cu ∧
      (s.readEventReleaseBody n).fs = s.fs ∧ (s.readEventReleaseBody n).we = s.we ∧
      (s.readEventReleaseBody n).sl = s.sl ∧ (s.readEventReleaseBody n).handed = s.handed ∧
      (s.readEventReleaseBody n).free = s.free ∧ (s.readEventReleaseBody n).pending = s.pending := by
  unfold State.readEventReleaseBody
  try dsimp only
  (repeat' split) <;> simp

@[simp] theorem State.readCountersReleaseBody_frame (s : State) (n : Nat) :
    (s.readCountersReleaseBody n).now = s.now ∧ (s.readCountersReleaseBody n).config = s.config ∧
      (s.readCountersReleaseBody n).mu = s.mu ∧ (s.readCountersReleaseBody n).lc = s.lc ∧
      (s.readCountersReleaseBody n).tu = s.tu ∧ (s.readCountersReleaseBody n).cu = s.cu ∧
      (s.readCountersReleaseBody n).fs = s.fs ∧ (s.readCountersReleaseBody n).we = s.we ∧
      (s.readCountersReleaseBody n).sl = s.sl ∧ (s.readCountersReleaseBody n).handed = s.handed ∧
      (s.readCountersReleaseBody n).free = s.free ∧ (s.readCountersReleaseBody n).pending = s.pending := by
  unfold State.readCountersReleaseBody
  try dsimp only
  (repeat' split) <;> simp

@[simp] theorem State.readFrontBody_frame (n : Nat) (s : State) (l : List Byte) :
    (s.readFrontBody n l).now = s.now ∧ (s.readFrontBody n l).config = s.config ∧ (s.readFrontBody n l).mu = s.mu ∧
      (s.readFrontBody n l).lc = s.lc ∧ (s.readFrontBody n l).tu = s.tu ∧ (s.readFrontBody n l).cu = s.cu ∧
      (s.readFrontBody n l).fs = s.fs ∧ (s.readFrontBody n l).we = s.we ∧ (s.readFrontBody n l).sl = s.sl ∧
      (s.readFrontBody n l).handed = s.handed ∧ (s.readFrontBody n l).free = s.free ∧
      (s.readFrontBody n l).pending = s.pending := by
  unfold State.readFrontBody
  try dsimp only
  (repeat' split) <;> simp

@[simp] theorem State.offerPixel_frame (s : State) (t : StreamTransaction) (e : Epoch) (p : Pixel) :
    (s.offerPixel t e p).now = s.now ∧ (s.offerPixel t e p).config = s.config ∧ (s.offerPixel t e p).mu = s.mu ∧
      (s.offerPixel t e p).lc = s.lc ∧ (s.offerPixel t e p).tu = s.tu ∧ (s.offerPixel t e p).cu = s.cu ∧
      (s.offerPixel t e p).fs = s.fs ∧ (s.offerPixel t e p).sl = s.sl ∧ (s.offerPixel t e p).handed = s.handed ∧
      (s.offerPixel t e p).free = s.free ∧ (s.offerPixel t e p).pending = s.pending := by
  unfold State.offerPixel
  try dsimp only
  (repeat' split) <;> simp

@[simp] theorem State.streamPixelByteBody_frame (s : State) (v : Byte) :
    (s.streamPixelByteBody v).now = s.now ∧ (s.streamPixelByteBody v).config = s.config ∧
      (s.streamPixelByteBody v).mu = s.mu ∧ (s.streamPixelByteBody v).lc = s.lc ∧
      (s.streamPixelByteBody v).tu = s.tu ∧ (s.streamPixelByteBody v).cu = s.cu ∧
      (s.streamPixelByteBody v).fs = s.fs ∧ (s.streamPixelByteBody v).sl = s.sl ∧
      (s.streamPixelByteBody v).handed = s.handed ∧ (s.streamPixelByteBody v).free = s.free ∧
      (s.streamPixelByteBody v).pending = s.pending := by
  unfold State.streamPixelByteBody
  try dsimp only
  (repeat' split) <;> simp

@[simp] theorem State.endStream_frame (s : State) (t : StreamTransaction) :
    (s.endStream t).now = s.now ∧ (s.endStream t).config = s.config ∧ (s.endStream t).mu = s.mu ∧
      (s.endStream t).tu = s.tu ∧ (s.endStream t).cu = s.cu ∧ (s.endStream t).fs = s.fs ∧ (s.endStream t).lp = s.lp ∧
      (s.endStream t).sl = s.sl ∧ (s.endStream t).handed = s.handed ∧ (s.endStream t).free = s.free ∧
      (s.endStream t).pending = s.pending := by
  unfold State.endStream
  try dsimp only
  (repeat' split) <;> simp

@[simp] theorem State.streamReleaseBody_frame (s : State) :
    (s.streamReleaseBody).now = s.now ∧ (s.streamReleaseBody).config = s.config ∧ (s.streamReleaseBody).mu = s.mu ∧
      (s.streamReleaseBody).tu = s.tu ∧ (s.streamReleaseBody).cu = s.cu ∧ (s.streamReleaseBody).fs = s.fs ∧
      (s.streamReleaseBody).sl = s.sl ∧ (s.streamReleaseBody).handed = s.handed ∧
      (s.streamReleaseBody).free = s.free ∧ (s.streamReleaseBody).pending = s.pending := by
  unfold State.streamReleaseBody
  try dsimp only
  (repeat' split) <;> simp

@[simp] theorem State.verticalStartBody_frame (s : State) (v : Bool) :
    (s.verticalStartBody v).now = s.now ∧ (s.verticalStartBody v).config = s.config ∧
      (s.verticalStartBody v).fs = s.fs ∧ (s.verticalStartBody v).we = s.we ∧ (s.verticalStartBody v).lp = s.lp ∧
      (s.verticalStartBody v).sl = s.sl ∧ (s.verticalStartBody v).free = s.free ∧
      (s.verticalStartBody v).pending = s.pending := by
  unfold State.verticalStartBody
  try dsimp only
  (repeat' split) <;> simp

@[simp] theorem State.operationEndBody_frame (s : State) (v : Bool) :
    (s.operationEndBody v).now = s.now ∧ (s.operationEndBody v).config = s.config ∧
      (s.operationEndBody v).mu = s.mu ∧ (s.operationEndBody v).tu = s.tu ∧ (s.operationEndBody v).cu = s.cu ∧
      (s.operationEndBody v).lp = s.lp ∧ (s.operationEndBody v).sl = s.sl ∧
      (s.operationEndBody v).handed = s.handed ∧ (s.operationEndBody v).free = s.free ∧
      (s.operationEndBody v).pending = s.pending := by
  unfold State.operationEndBody
  try dsimp only
  (repeat' split) <;> simp

@[simp] theorem State.frameStartBody_frame (s : State) (w : StartField) :
    (s.frameStartBody w).now = s.now ∧ (s.frameStartBody w).config = s.config ∧ (s.frameStartBody w).mu = s.mu ∧
      (s.frameStartBody w).cu = s.cu ∧ (s.frameStartBody w).fs = s.fs ∧ (s.frameStartBody w).we = s.we ∧
      (s.frameStartBody w).lp = s.lp ∧ (s.frameStartBody w).sl = s.sl ∧ (s.frameStartBody w).handed = s.handed ∧
      (s.frameStartBody w).pending = s.pending := by
  unfold State.frameStartBody
  try dsimp only
  (repeat' split) <;> simp

@[simp] theorem State.holdoffExpiryBody_frame (s : State) (c : ControlSlot) :
    (s.holdoffExpiryBody c).now = s.now ∧ (s.holdoffExpiryBody c).config = s.config ∧
      (s.holdoffExpiryBody c).mu = s.mu ∧ (s.holdoffExpiryBody c).tu = s.tu ∧ (s.holdoffExpiryBody c).cu = s.cu ∧
      (s.holdoffExpiryBody c).fs = s.fs ∧ (s.holdoffExpiryBody c).we = s.we ∧ (s.holdoffExpiryBody c).lp = s.lp ∧
      (s.holdoffExpiryBody c).sl = s.sl ∧ (s.holdoffExpiryBody c).handed = s.handed ∧
      (s.holdoffExpiryBody c).free = s.free ∧ (s.holdoffExpiryBody c).pending = s.pending := by
  unfold State.holdoffExpiryBody
  try dsimp only
  (repeat' split) <;> simp

@[simp] theorem State.addresseeExpiryBody_frame (s : State) (x : Station) :
    (s.addresseeExpiryBody x).now = s.now ∧ (s.addresseeExpiryBody x).config = s.config ∧
      (s.addresseeExpiryBody x).mu = s.mu ∧ (s.addresseeExpiryBody x).tu = s.tu ∧
      (s.addresseeExpiryBody x).cu = s.cu ∧ (s.addresseeExpiryBody x).fs = s.fs ∧
      (s.addresseeExpiryBody x).we = s.we ∧ (s.addresseeExpiryBody x).lp = s.lp ∧
      (s.addresseeExpiryBody x).sl = s.sl ∧ (s.addresseeExpiryBody x).handed = s.handed ∧
      (s.addresseeExpiryBody x).free = s.free ∧ (s.addresseeExpiryBody x).pending = s.pending := by
  unfold State.addresseeExpiryBody
  try dsimp only
  (repeat' split) <;> simp

@[simp] theorem State.endFrame_frame (s : State) (k : FrameKind) (e : FrameEnd) :
    (s.endFrame k e).now = s.now ∧ (s.endFrame k e).config = s.config ∧ (s.endFrame k e).sl = s.sl ∧
      (s.endFrame k e).pending = s.pending := by
  unfold State.endFrame
  try dsimp only
  (repeat' split) <;> simp

@[simp] theorem State.eepromAttemptBody_frame (s : State) (m : Option AckBit) :
    (s.eepromAttemptBody m).now = s.now ∧ (s.eepromAttemptBody m).config = s.config ∧
      (s.eepromAttemptBody m).lc = s.lc ∧ (s.eepromAttemptBody m).tu = s.tu ∧ (s.eepromAttemptBody m).cu = s.cu ∧
      (s.eepromAttemptBody m).fs = s.fs ∧ (s.eepromAttemptBody m).we = s.we ∧ (s.eepromAttemptBody m).lp = s.lp ∧
      (s.eepromAttemptBody m).handed = s.handed ∧ (s.eepromAttemptBody m).free = s.free ∧
      (s.eepromAttemptBody m).pending = s.pending := by
  unfold State.eepromAttemptBody
  try dsimp only
  (repeat' split) <;> simp

@[simp] theorem State.eepromByteBody_frame (s : State) (v : Byte) :
    (s.eepromByteBody v).now = s.now ∧ (s.eepromByteBody v).free = s.free ∧ (s.eepromByteBody v).pending = s.pending := by
  unfold State.eepromByteBody
  try dsimp only
  (repeat' split) <;> simp

@[simp] theorem State.hardReset_frame (s : State) (b : Bool) :
    (s.hardReset b).now = s.now ∧ (s.hardReset b).pending = s.pending := by
  unfold State.hardReset
  try dsimp only
  (repeat' split) <;> simp

@[simp] theorem State.powerOnBody_frame (s : State) :
    (s.powerOnBody).now = s.now ∧ (s.powerOnBody).pending = s.pending := by
  unfold State.powerOnBody
  try dsimp only
  (repeat' split) <;> simp

@[simp] theorem State.resetAssertBody_frame (s : State) :
    (s.resetAssertBody).now = s.now ∧ (s.resetAssertBody).pending = s.pending := by
  unfold State.resetAssertBody
  try dsimp only
  (repeat' split) <;> simp

@[simp] theorem State.resetReleaseBody_frame (s : State) :
    (s.resetReleaseBody).now = s.now ∧ (s.resetReleaseBody).config = s.config ∧ (s.resetReleaseBody).mu = s.mu ∧
      (s.resetReleaseBody).lc = s.lc ∧ (s.resetReleaseBody).tu = s.tu ∧ (s.resetReleaseBody).cu = s.cu ∧
      (s.resetReleaseBody).fs = s.fs ∧ (s.resetReleaseBody).we = s.we ∧ (s.resetReleaseBody).lp = s.lp ∧
      (s.resetReleaseBody).handed = s.handed ∧ (s.resetReleaseBody).free = s.free ∧
      (s.resetReleaseBody).pending = s.pending := by
  unfold State.resetReleaseBody
  try dsimp only
  (repeat' split) <;> simp

@[simp] theorem State.emptyTransactionBody_frame (s : State) :
    (s.emptyTransactionBody).now = s.now ∧ (s.emptyTransactionBody).config = s.config ∧
      (s.emptyTransactionBody).mu = s.mu ∧ (s.emptyTransactionBody).lc = s.lc ∧ (s.emptyTransactionBody).tu = s.tu ∧
      (s.emptyTransactionBody).cu = s.cu ∧ (s.emptyTransactionBody).fs = s.fs ∧ (s.emptyTransactionBody).we = s.we ∧
      (s.emptyTransactionBody).sl = s.sl ∧ (s.emptyTransactionBody).handed = s.handed ∧
      (s.emptyTransactionBody).free = s.free ∧ (s.emptyTransactionBody).pending = s.pending := by
  unfold State.emptyTransactionBody
  try dsimp only
  (repeat' split) <;> simp

@[simp] theorem State.afterSoftReset_frame (s : State) :
    (s.afterSoftReset).now = s.now ∧ (s.afterSoftReset).config = s.config ∧ (s.afterSoftReset).we = s.we ∧
      (s.afterSoftReset).lp = s.lp ∧ (s.afterSoftReset).free = s.free ∧ (s.afterSoftReset).pending = s.pending := by
  unfold State.afterSoftReset
  try dsimp only
  (repeat' split) <;> simp

@[simp] theorem State.softResetBody_frame (s : State) :
    (s.softResetBody).now = s.now ∧ (s.softResetBody).config = s.config ∧ (s.softResetBody).pending = s.pending := by
  unfold State.softResetBody
  try dsimp only
  (repeat' split) <;> simp

@[simp] theorem State.judgeSetWindow_frame (s : State) (l : List Byte) :
    ((s.judgeSetWindow l).1).now = s.now ∧ ((s.judgeSetWindow l).1).config = s.config ∧
      ((s.judgeSetWindow l).1).mu = s.mu ∧ ((s.judgeSetWindow l).1).lc = s.lc ∧ ((s.judgeSetWindow l).1).tu = s.tu ∧
      ((s.judgeSetWindow l).1).cu = s.cu ∧ ((s.judgeSetWindow l).1).fs = s.fs ∧ ((s.judgeSetWindow l).1).lp = s.lp ∧
      ((s.judgeSetWindow l).1).sl = s.sl ∧ ((s.judgeSetWindow l).1).handed = s.handed ∧
      ((s.judgeSetWindow l).1).free = s.free ∧ ((s.judgeSetWindow l).1).pending = s.pending := by
  unfold State.judgeSetWindow
  try dsimp only
  (repeat' split) <;> simp

@[simp] theorem State.judgeFill_frame (s : State) (l : List Byte) :
    ((s.judgeFill l).1).now = s.now ∧ ((s.judgeFill l).1).config = s.config ∧ ((s.judgeFill l).1).mu = s.mu ∧
      ((s.judgeFill l).1).tu = s.tu ∧ ((s.judgeFill l).1).cu = s.cu ∧ ((s.judgeFill l).1).fs = s.fs ∧
      ((s.judgeFill l).1).lp = s.lp ∧ ((s.judgeFill l).1).sl = s.sl ∧ ((s.judgeFill l).1).handed = s.handed ∧
      ((s.judgeFill l).1).free = s.free ∧ ((s.judgeFill l).1).pending = s.pending := by
  unfold State.judgeFill
  try dsimp only
  (repeat' split) <;> simp

@[simp] theorem State.judgePresent_frame (s : State) :
    (s.judgePresent.1).now = s.now ∧ (s.judgePresent.1).config = s.config ∧ (s.judgePresent.1).mu = s.mu ∧
      (s.judgePresent.1).lc = s.lc ∧ (s.judgePresent.1).tu = s.tu ∧ (s.judgePresent.1).fs = s.fs ∧
      (s.judgePresent.1).we = s.we ∧ (s.judgePresent.1).lp = s.lp ∧ (s.judgePresent.1).sl = s.sl ∧
      (s.judgePresent.1).handed = s.handed ∧ (s.judgePresent.1).free = s.free ∧
      (s.judgePresent.1).pending = s.pending := by
  unfold State.judgePresent
  try dsimp only
  (repeat' split) <;> simp

@[simp] theorem State.judgeLeave_frame (s : State) :
    (s.judgeLeave.1).now = s.now ∧ (s.judgeLeave.1).config = s.config ∧ (s.judgeLeave.1).mu = s.mu ∧
      (s.judgeLeave.1).tu = s.tu ∧ (s.judgeLeave.1).cu = s.cu ∧ (s.judgeLeave.1).fs = s.fs ∧
      (s.judgeLeave.1).we = s.we ∧ (s.judgeLeave.1).lp = s.lp ∧ (s.judgeLeave.1).sl = s.sl ∧
      (s.judgeLeave.1).handed = s.handed ∧ (s.judgeLeave.1).free = s.free ∧ (s.judgeLeave.1).pending = s.pending := by
  unfold State.judgeLeave
  try dsimp only
  (repeat' split) <;> simp

@[simp] theorem State.judgeJoin_frame (s : State) :
    (s.judgeJoin.1).now = s.now ∧ (s.judgeJoin.1).config = s.config ∧ (s.judgeJoin.1).we = s.we ∧
      (s.judgeJoin.1).lp = s.lp ∧ (s.judgeJoin.1).sl = s.sl ∧ (s.judgeJoin.1).free = s.free ∧
      (s.judgeJoin.1).pending = s.pending := by
  unfold State.judgeJoin
  try dsimp only
  (repeat' split) <;> simp

@[simp] theorem State.judgeSoftReset_frame (s : State) :
    (s.judgeSoftReset.1).now = s.now ∧ (s.judgeSoftReset.1).config = s.config ∧
      (s.judgeSoftReset.1).pending = s.pending := by
  unfold State.judgeSoftReset
  try dsimp only
  (repeat' split) <;> simp

@[simp] theorem State.judgeConfigRecord_frame (s : State) (l : List Byte) :
    ((s.judgeConfigRecord l).1).now = s.now ∧ ((s.judgeConfigRecord l).1).config = s.config ∧
      ((s.judgeConfigRecord l).1).mu = s.mu ∧ ((s.judgeConfigRecord l).1).lc = s.lc ∧
      ((s.judgeConfigRecord l).1).tu = s.tu ∧ ((s.judgeConfigRecord l).1).cu = s.cu ∧
      ((s.judgeConfigRecord l).1).fs = s.fs ∧ ((s.judgeConfigRecord l).1).we = s.we ∧
      ((s.judgeConfigRecord l).1).lp = s.lp ∧ ((s.judgeConfigRecord l).1).handed = s.handed ∧
      ((s.judgeConfigRecord l).1).free = s.free ∧ ((s.judgeConfigRecord l).1).pending = s.pending := by
  unfold State.judgeConfigRecord
  try dsimp only
  (repeat' split) <;> simp

@[simp] theorem State.judgeConfigEnd_frame (s : State) (l : List Byte) :
    ((s.judgeConfigEnd l).1).now = s.now ∧ ((s.judgeConfigEnd l).1).free = s.free ∧
      ((s.judgeConfigEnd l).1).pending = s.pending := by
  unfold State.judgeConfigEnd
  try dsimp only
  (repeat' split) <;> simp

end Sys2Proof.Machine
end

