-- ==== Sys2Proof/Laws/Commands.lean ====
section
/-! SUPPORT. Every command in one form: the time it carries, its own part, and the frame around it. -/

namespace Sys2Proof.Machine

/-- The time a command carries; none for a row that follows inside an event. -/
def timeOf : Instr → Option Nat
  | .powerOn dt => some dt
  | .resetPinAssert dt => some dt
  | .resetPinRelease dt => some dt
  | .eepromAttempt dt _ => some dt
  | .eepromRetryWaitExpiry dt => some dt
  | .eepromByte dt _ => some dt
  | .nop dt _ => some dt
  | .setWindow dt _ => some dt
  | .streamStart dt => some dt
  | .streamContinue dt => some dt
  | .streamPixelByte dt _ => some dt
  | .streamRelease dt => some dt
  | .fill dt _ => some dt
  | .present dt _ => some dt
  | .readStatus time => some time.dt
  | .readEvent dt => some dt
  | .readEventRelease dt _ => some dt
  | .readCounters dt => some dt
  | .readCountersRelease dt _ => some dt
  | .readFront time _ => some time.dt
  | .readFrontRow dt => some dt
  | .leave dt _ => some dt
  | .join dt _ => some dt
  | .softReset dt _ => some dt
  | .configRecord dt _ => some dt
  | .configEnd dt _ => some dt
  | .unknown dt _ _ => some dt
  | .emptyTransaction dt _ => some dt
  | .linkIdle dt => some dt
  | .frameStart dt _ => some dt
  | .frameCutShort cut => some cut.dt
  | .beacon dt _ => some dt
  | .joinFrame dt _ => some dt
  | .leaveFrame dt _ => some dt
  | .readyFrame dt _ => some dt
  | .dropFrame dt _ => some dt
  | .spanFrame dt _ => some dt
  | .fillFrame dt _ => some dt
  | .holdoffExpiry dt _ => some dt
  | .addresseeHoldoffExpiry dt _ => some dt
  | .verticalStart dt _ => some dt
  | .lockLoss => none
  | .beaconLoss => none
  | .readyWaitExpiry => none
  | .joiningPassage => none
  | .flip => none
  | .flipPassed => none
  | .prsRelease dt => some dt
  | .bankClearRow dt => some dt
  | .bankClearEnd => none
  | .bankWriterGrant => none
  | .bankWriterOpEnd dt _ => some dt
  | .routePixel dt => some dt
  | .waitingSpanAdmit => none
  | .readyQueued => none
  | .verticalBlankEnd dt => some dt

/-- A command's own part. -/
def effectOf : Instr → State → State
  | .powerOn _ => State.powerOnBody
  | .resetPinAssert _ => State.resetAssertBody
  | .resetPinRelease _ => State.resetReleaseBody
  | .eepromAttempt _ missing => State.eepromAttemptBody missing
  | .eepromRetryWaitExpiry _ => State.eepromExpiryBody
  | .eepromByte _ value => State.eepromByteBody value
  | .nop _ tail => State.judged (fun s => exactLength tail 0 s (fun s => (s, .ok)))
  | .setWindow _ tail => State.judged (fun s => exactLength tail 8 s (State.judgeSetWindow tail.bytes))
  | .streamStart _ => State.streamStartBody
  | .streamContinue _ => State.streamContinueBody
  | .streamPixelByte _ value => State.streamPixelByteBody value
  | .streamRelease _ => State.streamReleaseBody
  | .fill _ tail => State.judged (fun s => exactLength tail (8 + s.format.bytes) s (State.judgeFill tail.bytes))
  | .present _ tail => State.judged (fun s => exactLength tail 0 s State.judgePresent)
  | .readStatus time => State.readStatusBody time.low
  | .readEvent _ => State.readEventBody
  | .readEventRelease _ clocked => State.readEventReleaseBody clocked
  | .readCounters _ => State.readCountersBody
  | .readCountersRelease _ clocked => State.readCountersReleaseBody clocked
  | .readFront time params => State.readFrontBody time.low params
  | .readFrontRow _ => State.readFrontRowBody
  | .leave _ tail => State.judged (fun s => exactLength tail 0 s State.judgeLeave)
  | .join _ tail => State.judged (fun s => exactLength tail 0 s State.judgeJoin)
  | .softReset _ tail => State.judged (fun s => exactLength tail 0 s State.judgeSoftReset)
  | .configRecord _ tail => State.judged (fun s => if recordLengthIs tail then s.judgeConfigRecord tail.bytes else (s, .badLength))
  | .configEnd _ tail => State.judged (fun s => exactLength tail 2 s (State.judgeConfigEnd tail.bytes))
  | .unknown _ _ _ => State.judged (fun s => (s, .unknown))
  | .emptyTransaction _ _ => State.emptyTransactionBody
  | .linkIdle _ => State.linkIdleBody
  | .frameStart _ who => State.frameStartBody who
  | .frameCutShort cut => State.frameCutShortBody cut.lostBit
  | .beacon _ frame => State.endFrame .beacon frame
  | .joinFrame _ frame => State.endFrame .join frame
  | .leaveFrame _ frame => State.endFrame .leave frame
  | .readyFrame _ frame => State.endFrame .ready frame
  | .dropFrame _ frame => State.endFrame .drop frame
  | .spanFrame _ frame => State.endFrame .span frame
  | .fillFrame _ frame => State.endFrame .fill frame
  | .holdoffExpiry _ slot => State.holdoffExpiryBody slot
  | .addresseeHoldoffExpiry _ addressee => State.addresseeExpiryBody addressee
  | .verticalStart _ inVerdict => State.verticalStartBody inVerdict
  | .lockLoss => State.lockLossBody
  | .beaconLoss => State.beaconLossBody
  | .readyWaitExpiry => State.readyWaitBody
  | .joiningPassage => State.joiningPassageBody
  | .flip => State.flipBody
  | .flipPassed => State.flipPassedBody
  | .prsRelease _ => State.prsReleaseBody
  | .bankClearRow _ => State.bankClearRowBody
  | .bankClearEnd => State.bankClearEndBody
  | .bankWriterGrant => State.grantBody
  | .bankWriterOpEnd _ inVerdict => State.operationEndBody inVerdict
  | .routePixel _ => State.routePixelBody
  | .waitingSpanAdmit => State.waitingSpanBody
  | .readyQueued => State.readyQueuedBody
  | .verticalBlankEnd _ => State.blankEndBody

/-- Every command is an event of its own, or a row that follows inside one. -/
theorem exec_eq (c : Instr) (s : State) :
    exec c s = match timeOf c with
      | some dt => event dt (effectOf c) s
      | none => followOn (effectOf c) s := by
  cases c <;> dsimp only [exec, timeOf, effectOf] <;> rfl

/-- What the frame of a command keeps and every command's own part keeps, every command keeps. -/
theorem exec_keeps (P : State → Prop) (hclose : ∀ s, P s → P (closeEvent s)) (hsettle : ∀ s, P s → P (settle s))
    (hadvance : ∀ s dt, P s → P (s.advance dt)) (heffect : ∀ c s, P s → P (effectOf c s)) (c : Instr) (s t : State)
    (h : P s) (he : exec c s = .next t) : P t := by
  rw [exec_eq] at he
  split at he
  · injection he with he
    subst he
    exact hclose _ (heffect _ _ (hadvance _ _ (hsettle _ h)))
  · injection he with he
    subst he
    exact hclose _ (heffect _ _ h)

/-- What a judged command keeps, its transaction keeps. -/
theorem judged_keeps (P : State → Prop) (judge : State → Judged) (hopen : ∀ s t l, P s → P (s.openPort t l))
    (hresult : ∀ s r, P s → P (s.setResult r)) (hjudge : ∀ s, P s → P (judge s).1) (s : State) (h : P s) :
    P (s.judged judge) := by
  unfold State.judged
  split
  · exact hresult _ _ (hjudge _ (hopen _ _ _ h))
  · exact h

end Sys2Proof.Machine
end

