-- ==== Sys2Proof/Laws/Event.lean ====
section
/-! SUPPORT. The frame of a command: what the end of an event and the rows that follow inside it can do. -/

namespace Sys2Proof.Machine

/-! ## Derived updates, field by field -/

section
variable (s : State) (c : Counters) (v : Slots) (r : Record) (e : EventRecord) (dt : Nat) (b : List BufferedPixel)

theorem State.count_eq : s.count c = s.setLp { s.lp with counters := c } := rfl
theorem State.setSlots_eq : s.setSlots v = s.setLc { s.lc with slots := v } := rfl
theorem State.setRecord_eq : s.setRecord r = s.setCu { s.cu with record := some r } := rfl
theorem State.raise_eq : s.raise e = s.setLp { s.lp with raised := s.lp.raised ++ [e] } := rfl
theorem State.raiseAfter_eq : s.raiseAfter e = s.setLp { s.lp with raisedAfter := s.lp.raisedAfter ++ [e] } := rfl
theorem State.advance_eq : s.advance dt = s.setNow (s.now + dt) := rfl
theorem State.setBuffer_eq :
    s.setBuffer b = s.setWe { s.we with buffer := b, hold := holdLevel s.we.hold b.length } := rfl

end

/-! ## The end of an event -/

/-- With no record raised, nothing enters the queue. -/
theorem admitRaised_of_none (s : State) (h : s.lp.raised = []) (h' : s.lp.raisedAfter = []) : s.admitRaised = s := by
  cases s with
  | mk now config mu lc tu cu fs we lp sl handed free pending =>
    cases lp
    simp only at h h'
    subst h h'
    rfl

/-- One record raised alone enters by the rule of the queue; one free value is drawn. -/
theorem admitRaised_of_one (s : State) (e : EventRecord) (h : s.lp.raised = [e]) (h' : s.lp.raisedAfter = []) :
    s.admitRaised = (s.setLp (({ s.lp with raised := [], raisedAfter := [] } : Port).enqueue e)).setFree (s.free + 1) := by
  simp [State.admitRaised, h, h', freeOrder, insertAt]

/-- The end of an event that raised nothing and needs no second founding changes nothing. -/
theorem closeEvent_of_quiet (s : State) (h : s.lp.raised = []) (h' : s.lp.raisedAfter = []) (hf : s.refoundDue = false) :
    closeEvent s = s := by
  simp [closeEvent, State.refound, hf, admitRaised_of_none s h h']

/-- The end of an event that raised one record. -/
theorem closeEvent_of_one (s : State) (e : EventRecord) (h : s.lp.raised = [e]) (h' : s.lp.raisedAfter = [])
    (hf : s.refoundDue = false) :
    closeEvent s = (s.setLp (({ s.lp with raised := [], raisedAfter := [] } : Port).enqueue e)).setFree (s.free + 1) := by
  simp [closeEvent, State.refound, hf, admitRaised_of_one s e h h']

/-- With no span that finds room, WAITING_SPAN_ADMIT changes nothing. -/
theorem waitingSpanBody_of_none (s : State) (h : s.admissibleSpans = []) : s.waitingSpanBody = s := by
  have hd : s.we.waitingSpans.drop s.outboundRoom = s.we.waitingSpans := by
    rcases List.take_eq_nil_iff.mp h with h | h <;> simp [h]
  simp only [State.waitingSpanBody, h, hd, List.map_nil, List.append_nil]
  rfl

/-- Where nothing is due, the rows that follow inside an event change nothing. -/
theorem settle_of_quiet (s : State) (h : Quiet s) : settle s = s := by
  obtain ⟨hh, hr, hra, hf, hc, hj, hw, hrd, hg⟩ := h
  have hclose : closeEvent s = s := closeEvent_of_quiet s hr hra hf
  have h1 : s.flipBody = s := by simp [State.flipBody, hh, Handed.clear]
  have h2 : s.flipPassedBody = s := by simp [State.flipPassedBody, hh, Handed.clear]
  have h3 : s.lockLossBody = s := by simp [State.lockLossBody, hh, Handed.clear]
  have h4 : s.beaconLossBody = s := by simp [State.beaconLossBody, hh, Handed.clear]
  have h5 : s.readyWaitBody = s := by simp [State.readyWaitBody, hh, Handed.clear]
  have h6 : s.bankClearEndBody = s := by simp [State.bankClearEndBody, hc]
  have h7 : s.joiningPassageBody = s := by simp [State.joiningPassageBody, hj]
  have h8 : s.waitingSpanBody = s := waitingSpanBody_of_none s hw
  have h9 : s.readyQueuedBody = s := by simp [State.readyQueuedBody, hrd]
  have h10 : s.grantBody = s := by simp [State.grantBody, hg]
  simp [settle, h1, h2, h3, h4, h5, h6, h7, h8, h9, h10, hclose]

/-- A command that is an event of its own, where nothing was due. -/
theorem event_of_quiet (dt : Nat) (body : State → State) (s : State) (h : Quiet s) :
    event dt body s = .next (closeEvent (body (s.advance dt))) := by
  simp [event, settle_of_quiet s h]

/-- Every command that is an event of its own answers a next state. -/
theorem event_next (dt : Nat) (body : State → State) (s : State) :
    ∃ t, event dt body s = .next t := ⟨_, rfl⟩

/-- Every row that follows inside an event answers a next state. -/
theorem followOn_next (body : State → State) (s : State) : ∃ t, followOn body s = .next t := ⟨_, rfl⟩

/-- Passing time changes the clock alone. -/
@[simp] theorem advance_setPending (s : State) (dt : Nat) (q : List Instr) :
    (s.setPending q).advance dt = (s.advance dt).setPending q := rfl

end Sys2Proof.Machine
end

