-- ==== Sys2Proof/Laws/Steps.lean ====
section
/-! SUPPORT. From a command's own part to what the command answers. -/

namespace Sys2Proof.Machine

/-- Putting a record into the queue leaves what waits alone. -/
@[simp] theorem admit_raised (p : Port) (e : EventRecord) :
    (p.enqueue e).raised = p.raised ∧ (p.enqueue e).raisedAfter = p.raisedAfter := by
  unfold Port.enqueue
  split <;> exact ⟨rfl, rfl⟩

theorem foldl_admit_raised (l : List EventRecord) : ∀ p : Port,
    (l.foldl Port.enqueue p).raised = p.raised ∧ (l.foldl Port.enqueue p).raisedAfter = p.raisedAfter := by
  induction l with
  | nil => intro p; exact ⟨rfl, rfl⟩
  | cons e l ih =>
    intro p
    have := ih (p.enqueue e)
    simpa using this

/-- After the end of an event nothing waits to enter the queue. -/
theorem admitRaised_empties (s : State) : s.admitRaised.lp.raised = [] ∧ s.admitRaised.lp.raisedAfter = [] := by
  have := foldl_admit_raised (freeOrder s.free s.lp.raised ++ s.lp.raisedAfter)
    { s.lp with raised := [], raisedAfter := [] }
  simpa only [State.admitRaised, State.setFree_lp, State.setLp_lp] using this

/-- Founding leaves no second founding due. -/
theorem refound_settles (s : State) : s.refound.refoundDue = false := by
  unfold State.refound
  split
  · simp [State.refoundDue, State.found]
  · rename_i h
    simpa using h

/-- The end of an event leaves nothing raised and no founding due. -/
theorem closeEvent_unraised (s : State) : (closeEvent s).Unraised := by
  obtain ⟨h1, h2⟩ := admitRaised_empties s.refound
  refine ⟨h1, h2, ?_⟩
  have hm : (closeEvent s).mu = s.refound.mu := by simp [closeEvent]
  have hc : (closeEvent s).config = s.refound.config := by simp [closeEvent]
  have := refound_settles s
  unfold State.refoundDue State.self at *
  rw [hm, hc]
  exact this

/-- Between two events nothing is raised. -/
theorem unraised_of_quiet (s : State) (h : Quiet s) : s.Unraised := ⟨h.2.1, h.2.2.1, h.2.2.2.1⟩

theorem closeEvent_of_unraised (s : State) (h : s.Unraised) : closeEvent s = s :=
  closeEvent_of_quiet s h.1 h.2.1 h.2.2

/-- A command whose own part raises nothing answers that part. -/
theorem event_of_effect (dt : Nat) (body : State → State) (s t : State) (h : Quiet s) (hb : body (s.advance dt) = t)
    (ht : t.Unraised) : event dt body s = .next t := by
  rw [event_of_quiet dt body s h, hb, closeEvent_of_unraised t ht]

/-- An event that raised one record ends with that record in the queue. -/
theorem closeEvent_raise (t : State) (e : EventRecord) (ht : t.Unraised) :
    closeEvent (t.raise e) = (t.setLp (t.lp.enqueue e)).setFree (t.free + 1) := by
  rw [closeEvent_of_one (t.raise e) e]
  · simp only [State.raise, State.setLp_lp, State.setLp_free]
    have : ({ t.lp with raised := [], raisedAfter := [] } : Port) = t.lp := by
      obtain ⟨h1, h2, _⟩ := ht
      cases hl : t.lp
      rw [hl] at h1 h2
      simp only at h1 h2
      subst h1 h2
      rfl
    rw [this]
    rfl
  · simp [State.raise, ht.1]
  · simp [State.raise, ht.2.1]
  · exact ht.2.2

/-- A command whose own part raises one record answers that part with the record in the queue. -/
theorem event_of_effect_raise (dt : Nat) (body : State → State) (s t : State) (e : EventRecord) (h : Quiet s)
    (hb : body (s.advance dt) = t.raise e) (ht : t.Unraised) :
    event dt body s = .next ((t.setLp (t.lp.enqueue e)).setFree (t.free + 1)) := by
  rw [event_of_quiet dt body s h, hb, closeEvent_raise t e ht]

/-- A row that follows inside an event and raises nothing answers its own part. -/
theorem followOn_of_effect (body : State → State) (s t : State) (hb : body s = t) (ht : t.Unraised) :
    followOn body s = .next t := by
  rw [followOn, hb, closeEvent_of_unraised t ht]

/-- A row that follows inside an event and raises one record. -/
theorem followOn_of_effect_raise (body : State → State) (s t : State) (e : EventRecord) (hb : body s = t.raise e)
    (ht : t.Unraised) : followOn body s = .next ((t.setLp (t.lp.enqueue e)).setFree (t.free + 1)) := by
  rw [followOn, hb, closeEvent_raise t e ht]

end Sys2Proof.Machine
end

