-- ==== Sys2Proof/Laws/Removals.lean ====
section
/-! SUPPORT. What a removal hands on, and how an event ends that raised several records: one lemma for each. -/

namespace Sys2Proof.Machine

/-! ## Counters -/

/-- Nothing counted leaves the counter. -/
theorem saturate_zero (c : BitVec 16) : saturate c 0 = c := by
  have := c.isLt
  apply BitVec.eq_of_toNat_eq
  simp only [saturate, BitVec.toNat_ofNat]
  omega

/-- Counting twice is counting the sum. -/
theorem saturate_add (c : BitVec 16) (m n : Nat) : saturate (saturate c m) n = saturate c (m + n) := by
  have := c.isLt
  apply BitVec.eq_of_toNat_eq
  simp only [saturate, BitVec.toNat_ofNat]
  omega

/-! ## Removals -/

/-- The discard for one station as one update. -/
theorem discardFor_eq (s : State) (x : Station) :
    s.discardFor x = { s with
      lc := { s.lc with outbound := s.lc.outbound.filter (fun e => e.addressee ≠ x),
                        addressees := s.lc.addressees.set x.val Retry.fresh x.isLt },
      we := { s.we with waitingSpans := s.we.waitingSpans.filter (fun r => r.addressee ≠ x),
                        openRun := s.we.openRun.filter (fun r => r.addressee ≠ x) },
      lp := { s.lp with
        counters := { s.lp.counters with spansLost := saturate s.lp.counters.spansLost (s.heldFor x).length },
        raised := s.lp.raised ++ ((s.heldFor x).head?.map (fun e => EventRecord.spanLost x e true)).toList } } := by
  rw [State.discardFor, State.withoutEntries]
  cases h : s.heldFor x with
  | nil =>
    simp only [State.reportGone, List.length_nil, saturate_zero, List.head?_nil, Option.map_none, Option.toList_none,
      List.append_nil]
    rfl
  | cons e l => rfl

/-- What is held for a station is not touched by the removal of another. -/
theorem heldFor_discardFor (s : State) (x y : Station) (h : y ≠ x) : (s.discardFor x).heldFor y = s.heldFor y := by
  have hx : ∀ z : Station, (decide (z = y) && decide (z ≠ x)) = decide (z = y) := by
    intro z
    by_cases hz : z = y <;> simp [hz, h]
  have ho : ∀ o : Option Run,
      (o.filter (fun r => r.addressee ≠ x)).filter (fun r => r.addressee = y) = o.filter (fun r => r.addressee = y) := by
    intro o
    rcases o with _ | r
    · rfl
    · by_cases hz : r.addressee = y
      · have : r.addressee ≠ x := fun e => h (hz.symm.trans e)
        simp [Option.filter, this]
      · by_cases hw : r.addressee = x <;> simp [Option.filter, hw]
        intro e
        exact absurd (hw.trans e) hz
  rw [discardFor_eq]
  simp only [State.heldFor, List.filter_filter, hx, ho]

/-- The discards for several stations as one update. -/
theorem foldl_discardFor (xs : List Station) (hn : xs.Nodup) : ∀ s : State,
    xs.foldl State.discardFor s = { s with
      lc := { s.lc with outbound := s.lc.outbound.filter (fun e => e.addressee ∉ xs),
                        addressees := Vector.ofFn (fun x : Fin 16 => if x ∈ xs then Retry.fresh
                          else s.lc.addressees[x.val]) },
      we := { s.we with waitingSpans := s.we.waitingSpans.filter (fun r => r.addressee ∉ xs),
                        openRun := s.we.openRun.filter (fun r => r.addressee ∉ xs) },
      lp := { s.lp with
        counters := { s.lp.counters with
          spansLost := saturate s.lp.counters.spansLost (xs.map (fun x => (s.heldFor x).length)).sum },
        raised := s.lp.raised ++
          xs.filterMap (fun x => (s.heldFor x).head?.map (fun e => EventRecord.spanLost x e true)) } } := by
  induction xs with
  | nil =>
    intro s
    have hv : (Vector.ofFn fun x : Fin 16 => s.lc.addressees[x.val]) = s.lc.addressees := by
      ext i hi
      simp
    have hf : s.we.openRun.filter (fun _ => true) = s.we.openRun := by cases s.we.openRun <;> rfl
    simp [saturate_zero, hv, hf]
  | cons x l ih =>
    intro s
    obtain ⟨hx, hl⟩ := List.nodup_cons.mp hn
    have hheld : ∀ y ∈ l, (s.discardFor x).heldFor y = s.heldFor y :=
      fun y hy => heldFor_discardFor s x y (fun e => hx (e ▸ hy))
    rw [List.foldl_cons, ih hl, List.map_congr_left (fun y hy => by rw [hheld y hy]),
      List.filterMap_congr (fun y hy => by rw [hheld y hy]), discardFor_eq]
    have hm : ∀ z : Station, (decide (z ∉ l) && decide (z ≠ x)) = decide (z ∉ x :: l) := by
      intro z
      by_cases hz : z = x <;> simp [hz]
    have ho : ∀ o : Option Run,
        (o.filter (fun r => r.addressee ≠ x)).filter (fun r => r.addressee ∉ l) =
          o.filter (fun r => r.addressee ∉ x :: l) := by
      intro o
      rcases o with _ | r
      · rfl
      · by_cases hz : r.addressee = x <;> simp [Option.filter, hz]
    have hv : (Vector.ofFn fun y : Fin 16 => if y ∈ l then Retry.fresh
          else (s.lc.addressees.set x.val Retry.fresh x.isLt)[y.val]) =
        Vector.ofFn fun y : Fin 16 => if y ∈ x :: l then Retry.fresh else s.lc.addressees[y.val] := by
      ext i hi
      by_cases hxi : x.val = i
      · subst hxi
        simp
      · have : ¬(⟨i, hi⟩ : Fin 16) = x := fun e => hxi (by rw [← e])
        simp [Vector.getElem_set, hxi, this]
    have hr : ∀ (a b : List EventRecord) (o : Option EventRecord), a ++ o.toList ++ b =
        a ++ (match o with | some e => e :: b | none => b) := by
      intro a b o
      cases o <;> simp
    have hs : (List.filterMap (fun y => (s.heldFor y).head?.map (fun e => EventRecord.spanLost y e true)) (x :: l)) =
        (match (s.heldFor x).head?.map (fun e => EventRecord.spanLost x e true) with
          | some e => e :: List.filterMap (fun y => (s.heldFor y).head?.map (fun e => EventRecord.spanLost y e true)) l
          | none => List.filterMap (fun y => (s.heldFor y).head?.map (fun e => EventRecord.spanLost y e true)) l) := by
      rw [List.filterMap_cons]
      cases (s.heldFor x).head?.map (fun e => EventRecord.spanLost x e true) <;> rfl
    simp only [List.filter_filter, hm, ho, hv, saturate_add, List.map_cons, List.sum_cons, hr, hs]

/-- The DROP set without some stations as one update (R31). -/
theorem dropLoses_eq (s : State) (m : StationSet) :
    s.dropLoses m = { s with lc := { s.lc with slots := { s.lc.slots with
      drop := (s.lc.slots.drop.map (fun d => { d with stations := setMinus d.stations m })).filter
        (fun d => d.stations ≠ 0#16) } } } := by
  rw [State.dropLoses]
  cases h : s.lc.slots.drop with
  | none => 
    obtain ⟨now, config, mu, ⟨view, flight, slotView, ⟨beacon, drop, leave, join, ready⟩, outbound, addressees⟩, tu, cu, fs, we,
      lp, sl, handed, free, pending⟩ := s
    simp only at h
    subst h
    rfl
  | some d =>
    by_cases hz : setMinus d.stations m = 0#16 <;> simp [hz, Option.filter, State.setSlots, State.setLc]

/-- What is held for a station does not depend on the DROP slot. -/
theorem heldFor_dropLoses (s : State) (m : StationSet) (x : Station) : (s.dropLoses m).heldFor x = s.heldFor x := by
  unfold State.dropLoses
  split
  · rfl
  · split <;> rfl

/-- The removals of one event as one update (R44). -/
theorem handOnRemovals_eq (s : State) (m : StationSet) :
    s.handOnRemovals m = { s.dropLoses m with
      lc := (s.dropLoses m).lc.without m, we := s.we.without m,
      lp := { s.lp with counters := s.goneCounters m, raised := s.lp.raised ++ s.goneRecords m } } := by
  have hmem : ∀ x : Station, (x ∈ stationsOf m) = (hasStation m x = true) := by
    intro x
    simp [stationsOf]
  have hnot : ∀ x : Station, decide (¬hasStation m x = true) = !hasStation m x := by
    intro x
    cases hasStation m x <;> rfl
  have hn : (stationsOf m).Nodup := (List.nodup_finRange 16).filter _
  have hd : (s.dropLoses m).lp = s.lp ∧ (s.dropLoses m).we = s.we := by
    unfold State.dropLoses
    split
    · exact ⟨rfl, rfl⟩
    · split <;> exact ⟨rfl, rfl⟩
  rw [State.handOnRemovals, foldl_discardFor _ hn]
  simp only [heldFor_dropLoses, hmem, hnot, hd.1, hd.2]
  rfl

/-- What the record, the slots and the ranks make of a removal does not depend on the Local Port, nor changes it. -/
theorem recordLoses_setLp (s : State) (m : StationSet) (p : Port) :
    (s.setLp p).recordLoses m = (s.recordLoses m).setLp p := by
  simp only [State.recordLoses, State.setLp_cu]
  split <;> rfl

theorem dropLoses_setLp (s : State) (m : StationSet) (p : Port) : (s.setLp p).dropLoses m = (s.dropLoses m).setLp p := by
  simp only [State.dropLoses, State.setLp_lc]
  split
  · rfl
  · split <;> rfl

theorem requestDrop_setLp (s : State) (m : StationSet) (p : Port) :
    (s.setLp p).requestDrop m = (s.requestDrop m).setLp p := by
  simp only [State.requestDrop, State.setLp_lc]
  split <;> rfl

theorem rankRetest_setLp (s : State) (p : Port) : (s.setLp p).rankRetest = s.rankRetest.setLp p := by
  have : (s.setLp p).lostSource = s.lostSource := rfl
  rw [State.rankRetest, State.rankRetest, this]
  split
  · exact requestDrop_setLp _ _ _
  · rfl

theorem completionCheck_setLp (s : State) (k : Completing) (p : Port) :
    (s.setLp p).completionCheck k = (s.completionCheck k).setLp p := by
  simp only [State.completionCheck, State.setLp_cu]
  split
  · rfl
  · split <;> rfl

/-- What a MEMBER loses, as one update: what `State.bereft` says, with the count and the records of what was discarded. -/
theorem lose_eq (s : State) (m : StationSet) (h : m ≠ 0#16) :
    s.lose m = (s.bereft m).setLp
      { s.lp with counters := s.goneCounters m, raised := s.lp.raised ++ s.goneRecords m } := by
  rw [State.lose, if_neg h, handOnRemovals_eq, State.bereft]
  have hrec : ∀ t : State, t.recordLoses m = { t with cu := { t.cu with
      record := t.cu.record.map (fun r => { r with required := setMinus r.required m, ready := setMinus r.ready m }) } } := by
    intro t
    rw [State.recordLoses]
    cases hr : t.cu.record with
    | none => 
      obtain ⟨now, config, mu, lc, tu, ⟨record, phase, timer⟩, fs, we, lp, sl, handed, free, pending⟩ := t
      simp only at hr
      subst hr
      rfl
    | some r => rfl
  rw [hrec, ← rankRetest_setLp]
  congr 1
  simp only [dropLoses_eq]
  rfl

/-! ## The end of an event that raised several records -/

/-- What entering several records can change, and what it does where the queue has room (R187). -/
theorem foldl_enqueue_eq (l : List EventRecord) : ∀ p : Port,
    (∃ (q : List EventRecord) (n : BitVec 16),
      l.foldl Port.enqueue p = { p with events := q, counters := { p.counters with eventsLost := n } }) ∧
    (p.events.length + l.length ≤ 32 → l.foldl Port.enqueue p = { p with events := p.events ++ l }) := by
  induction l with
  | nil => exact fun p => ⟨⟨p.events, p.counters.eventsLost, rfl⟩, fun _ => by simp⟩
  | cons e l ih =>
    intro p
    rw [List.foldl_cons]
    by_cases h : p.events.length < 32
    · have he : p.enqueue e = { p with events := p.events ++ [e] } := by simp [Port.enqueue, Config.eventCapacity, h]
      rw [he]
      obtain ⟨⟨q, n, hq⟩, hroom⟩ := ih { p with events := p.events ++ [e] }
      refine ⟨⟨q, n, hq⟩, fun hl => ?_⟩
      rw [hroom (by simp only [List.length_append, List.length_cons, List.length_nil] at hl ⊢; omega)]
      simp
    · have he : p.enqueue e =
          { p with counters := { p.counters with eventsLost := saturate p.counters.eventsLost 1 } } := by
        simp [Port.enqueue, Config.eventCapacity, h]
      rw [he]
      obtain ⟨⟨q, n, hq⟩, _⟩ := ih
        { p with counters := { p.counters with eventsLost := saturate p.counters.eventsLost 1 } }
      exact ⟨⟨q, n, hq⟩, fun hl => absurd hl (by simp only [List.length_cons]; omega)⟩

theorem insertAt_perm {α : Type} (x : α) : ∀ (n : Nat) (l : List α), (insertAt x n l).Perm (x :: l)
  | _, [] => by simp [insertAt]
  | 0, _ :: _ => by simp [insertAt]
  | n + 1, y :: ys => by
    rw [insertAt]
    exact ((insertAt_perm x n ys).cons y).trans (List.Perm.swap x y ys)

theorem freeOrder_perm {α : Type} : ∀ (k : Nat) (l : List α), (freeOrder k l).Perm l
  | _, [] => by simp [freeOrder]
  | k, x :: xs => by
    rw [freeOrder]
    exact (insertAt_perm x _ _).trans ((freeOrder_perm (k + 1) xs).cons x)

/-- An event that changed the counters and raised records ends as `State.Reported` says. -/
theorem closeEvent_reported (v : State) (k : Counters) (first last : List EventRecord) (hv : v.Unraised) :
    v.Reported (closeEvent (v.setLp { v.lp with counters := k, raised := first, raisedAfter := last })) k first last := by
  obtain ⟨h1, h2, h3⟩ := hv
  have hr : (v.setLp { v.lp with counters := k, raised := first, raisedAfter := last }).refound =
      v.setLp { v.lp with counters := k, raised := first, raisedAfter := last } := by
    have : (v.setLp { v.lp with counters := k, raised := first, raisedAfter := last }).refoundDue = false := h3
    simp [State.refound, this]
  have hp : ({ v.lp with counters := k, raised := [], raisedAfter := [] } : Port) = { v.lp with counters := k } := by
    have : v.lp = { v.lp with raised := [], raisedAfter := [] } := by
      cases hl : v.lp
      rw [hl] at h1 h2
      simp only at h1 h2
      subst h1 h2
      rfl
    rw [this]
  have hperm := freeOrder_perm v.free first
  obtain ⟨⟨q, n, hq⟩, hroom⟩ := foldl_enqueue_eq (freeOrder v.free first ++ last) { v.lp with counters := k }
  rw [closeEvent, hr, State.admitRaised]
  simp only [State.setLp_lp, State.setLp_free, hp]
  refine ⟨?_, fun hl => ?_⟩
  · rw [hq]
    rfl
  · rw [hroom (by simp only [List.length_append, hperm.length_eq]; omega)]
    exact ⟨rfl, _, hperm, by simp⟩

/-- A command whose own part changed the counters and raised records answers what `State.Reported` says. -/
theorem reported_of_effect (dt : Nat) (body : State → State) (s v : State) (k : Counters) (raised first last : List EventRecord)
    (h : Quiet s)
    (hb : body (s.advance dt) = v.setLp
      { v.lp with counters := k, raised := v.lp.raised ++ raised, raisedAfter := v.lp.raisedAfter ++ last })
    (hp : raised.Perm first) (hv : v.Unraised) : ∃ t, event dt body s = .next t ∧ v.Reported t k first last := by
  refine ⟨_, event_of_quiet dt body s h, ?_⟩
  rw [hb, hv.1, hv.2.1, List.nil_append, List.nil_append]
  obtain ⟨h1, h2⟩ := closeEvent_reported v k raised last hv
  refine ⟨h1, fun hroom => ?_⟩
  obtain ⟨h3, order, h4, h5⟩ := h2 (by rw [hp.length_eq]; exact hroom)
  exact ⟨h3, order, h4.trans hp, h5⟩

end Sys2Proof.Machine
end

