-- ==== Sys2Proof/Laws/Adoption.lean ====
section
/-! SUPPORT. What the adoption of a beacon does at a MEMBER, part by part, and all of it as one update. -/

namespace Sys2Proof.Machine

/-! ## The Timing Unit's part -/

/-- The correction placed at an adoption (R79), as one update of the Timing Unit. -/
theorem placeCorrection_eq (s : State) (e : Int) (c : Configuration) (g : Generator) (hc : s.config = some c)
    (hg : s.tu.generator = some g) :
    s.placeCorrection e = { s with tu := { s.tu with
      held := if g.activeSince.isSome then some e else s.tu.held,
      generator := if g.activeSince.isSome then some g
        else some { g with correction := some e,
                           activeSince := if ({ g with correction := some e } : Generator).blankEnd c ≤ s.now
                             then some s.now else none } } } := by
  obtain ⟨now, config, mu, lc, ⟨generator, count, lock, source, silent, held, startPhase, startsSince⟩, cu, fs, we, lp, sl,
    handed, free, pending⟩ := s
  simp only at hc hg
  subst hc hg
  simp only [State.placeCorrection, State.setTu]
  cases h : g.activeSince with
  | none =>
    simp only [Option.isSome_none, Bool.false_eq_true, if_false]
    congr 3
    split <;> rfl
  | some a => rfl

/-- Count, lock state, correction, source, silent count and beacon slot at an adoption (R72, R74 to R80), as one update. -/
theorem adoptTiming_eq (s : State) (x : Station) (b : BeaconBody) (c : Configuration) (g : Generator) (p : Nat)
    (hc : s.config = some c) (hg : s.tu.generator = some g) (hp : s.tu.startPhase = some p) :
    s.adoptTiming x b = { s with
      tu := { s.tu with
        count := s.countFrom b c p, lock := (lockFrom b c p).1, source := some x, silent := 0,
        held := if g.activeSince.isSome then some (lockFrom b c p).2 else s.tu.held,
        generator := if g.activeSince.isSome then some g
          else some { g with correction := some (lockFrom b c p).2,
                             activeSince := if ({ g with correction := some (lockFrom b c p).2 } : Generator).blankEnd c ≤ s.now
                               then some s.now else none } },
      lc := { s.lc with slots := { s.lc.slots with beacon := s.lc.slots.beacon && !decide (x < c.map.self) } },
      lp := { s.lp with raised := s.lp.raised ++
        ((if s.tu.lock = (lockFrom b c p).1 then [] else [EventRecord.lock (lockFrom b c p).1]) ++
          (if s.tu.source = some x then [] else [EventRecord.reference x])) } } := by
  have hm : s.measured b = phaseError ((p : Int) - b.launchDelay) ((c.blank + c.map.ownTile.height) * c.lineTime) := by
    simp only [State.measured, hp, State.period, hc]
    rfl
  have hcount : s.adoptedCount b = s.countFrom b c p := by rw [State.adoptedCount, hm, State.countFrom]
  have hline : s.lineTime = c.lineTime := by simp only [State.lineTime, hc]
  have hlock : lockAndCorrection (s.measured b).1 s.lineTime = lockFrom b c p := by rw [hm, hline, lockFrom]
  have hset : ∀ (t : State) (l : LockState), t.setLock l = { t with
      tu := { t.tu with lock := l }, lp := { t.lp with raised := t.lp.raised ++
        (if t.tu.lock = l then [] else [EventRecord.lock l]) } } := by
    intro t l
    rw [State.setLock]
    by_cases h : t.tu.lock = l
    · subst h
      simp only [if_true, List.append_nil]
    · simp only [h, if_false]
      rfl
  have hsource : ∀ t : State, t.adoptSource x = { t with
      tu := { t.tu with source := some x }, lp := { t.lp with raised := t.lp.raised ++
        (if t.tu.source = some x then [] else [EventRecord.reference x]) } } := by
    intro t
    rw [State.adoptSource]
    by_cases h : t.tu.source = some x
    · simp only [h, if_true, List.append_nil]
      rw [← h]
    · simp only [h, if_false]
      rfl
  have hwith : ∀ t : State, t.config = some c → t.withdrawBeacon x = { t with lc := { t.lc with slots :=
      { t.lc.slots with beacon := t.lc.slots.beacon && !decide (x < c.map.self) } } } := by
    intro t ht
    have hself : t.self = c.map.self := by simp only [State.self, ht]
    rw [State.withdrawBeacon, hself]
    by_cases h : x < c.map.self
    · simp only [h, if_true, decide_true, Bool.not_true, Bool.and_false]
      rfl
    · simp only [h, if_false, decide_false, Bool.not_false, Bool.and_true]
  rw [State.adoptTiming]
  simp only [hcount, hlock]
  rw [hset, placeCorrection_eq _ _ c g (by exact hc) (by exact hg), hsource, hwith _ (by exact hc)]
  simp only [State.setTu, List.append_assoc]
  rfl

/-! ## The Membership Unit's, the Commit Unit's and the Frame Store's part -/

/-- The table at a MEMBER and what is handed on (R44, R54), as one update. -/
theorem adoptMembers_eq (s : State) (b : BeaconBody) (h : s.mu.state = .member) :
    s.adoptMembers b = { s.dropLoses (setMinus s.mu.members b.members) with
      mu := { s.mu with members := b.members, synced := true, foreign := setMinus s.mu.foreign b.members },
      lc := (s.dropLoses (setMinus s.mu.members b.members)).lc.without (setMinus s.mu.members b.members),
      we := s.we.without (setMinus s.mu.members b.members),
      lp := { s.lp with counters := s.goneCounters (setMinus s.mu.members b.members),
                        raised := s.lp.raised ++ s.goneRecords (setMinus s.mu.members b.members) } } := by
  rw [State.adoptMembers, if_pos h, handOnRemovals_eq]
  simp only [dropLoses_eq]
  rfl

/-- The READY and DROP slots at an adoption (R31, R112), as one update. -/
theorem adoptSlots_eq (s : State) (r : Record) (kept : Bool) :
    s.adoptSlots r kept = { s with lc := { s.lc with slots := { s.lc.slots with
      ready := if kept = true ∧ hasStation r.ready s.self = false then s.lc.slots.ready else none,
      drop := if kept then
          (s.lc.slots.drop.map (fun d => { d with stations := setMinus d.stations r.ready })).filter
            (fun d => d.stations ≠ 0#16)
        else none } } } := by
  unfold State.adoptSlots
  cases kept
  · simp only [Bool.false_eq_true, if_false, false_and, Bool.not_false, true_or, if_true]
    rfl
  · have hself : (s.dropLoses r.ready).self = s.self := by rw [dropLoses_eq]; rfl
    simp only [if_true, true_and, Bool.not_true, Bool.false_eq_true, false_or, hself]
    simp only [dropLoses_eq]
    cases hasStation r.ready s.self <;> rfl

/-- Record, phase, timer and slots at a MEMBER (R31, R110 to R112), as one update. -/
theorem adoptRecord_eq (s : State) (b : BeaconBody) (c : Configuration) (r : Record) (phase : Phase) (hc : s.config = some c)
    (h : s.mu.state = .member) (hr : r = adoptedRecord s.cu.record b)
    (hph : phase = adoptedPhase r c.map.self (s.sameEpoch b) s.cu.phase) :
    s.adoptRecord b = { s with
      cu := { record := some r, phase := phase,
              timer := if phase = .waiting ∧ s.cu.phase = .waiting ∧ s.sameEpoch b = true then s.cu.timer else 0 },
      lc := { s.lc with slots := { s.lc.slots with
        ready := if s.sameEpoch b = true ∧ hasStation r.ready c.map.self = false then s.lc.slots.ready else none,
        drop := if s.sameEpoch b then
            (s.lc.slots.drop.map (fun d => { d with stations := setMinus d.stations r.ready })).filter
              (fun d => d.stations ≠ 0#16)
          else none } } } := by
  have hself : s.self = c.map.self := by simp only [State.self, hc]
  have hselfs : ∀ k : Commit, (s.setCu k).self = c.map.self := fun _ => hself
  subst hr hph
  unfold State.adoptRecord State.sameEpoch
  rcases hrec : s.cu.record with _ | q <;>
    simp only [h, if_true, hself, adoptSlots_eq, hselfs, Option.any_none, Option.any_some] <;> rfl

/-- An adoption that leaves the back-bank epoch e (R132), as one update. -/
theorem adoptInbound_eq (s u : State) (e : Epoch) (he : s.backEpoch = some e) (hu : u.fs = s.fs) :
    s.adoptInbound u.backEpoch = { s with
      fs := { s.fs with inbound := (u.inboundAt e).1 },
      lp := { s.lp with counters := { s.lp.counters with
        staleEntries := saturate s.lp.counters.staleEntries (u.inboundAt e).2 } } } := by
  unfold State.adoptInbound State.inboundAt
  simp only [he]
  by_cases h : u.backEpoch = some e
  · simp only [h, if_true, saturate_zero, hu]
  · simp only [h, if_false]
    have ha : s.fs.applying = u.fs.operation.any (fun o => o.requester == .inbound) := by
      rw [FrameStore.applying, hu]
      cases s.fs.operation <;> rfl
    have hk : s.fs.keptEntries e = (match u.fs.inbound with
      | [] => []
      | h :: rest =>
        (if h.leaving ∨ h.epoch = e ∨ h.epoch = e + 1 then [h]
          else if u.fs.operation.any (fun o => o.requester == .inbound) then [{ h with leaving := true }] else []) ++
          rest.filter (fun q => q.epoch == e || q.epoch == e + 1)) := by
      rw [FrameStore.keptEntries, ha, hu]
      cases s.fs.inbound with
      | nil => rfl
      | cons q rest => simp only [InEntry.keptAt, Bool.or_eq_true, beq_iff_eq]
    have hn : s.fs.removedCount e =
        (u.fs.inbound.filter (fun q => !q.leaving && q.epoch != e && q.epoch != e + 1)).length := by
      rw [FrameStore.removedCount, hu]
      congr 2
      funext q
      simp only [InEntry.keptAt, bne, Bool.not_or, Bool.and_assoc]
    rw [hk, hn]
    rfl

/-! ## The whole adoption -/

/-- What a MEMBER makes of a beacon it adopts: what `State.afterAdoption` says, with the counts and the records. -/
theorem adopt_eq (s : State) (x : Station) (b : BeaconBody) (c : Configuration) (g : Generator) (p : Nat)
    (hm : s.mu.state = .member) (hc : s.config = some c) (hg : s.tu.generator = some g) (hp : s.tu.startPhase = some p) :
    s.adopt x b = (s.afterAdoption x b c g p).setLp
      { s.lp with counters := s.adoptionCounters b, raised := s.lp.raised ++ s.adoptionRecords x b c p } := by
  have hdrop : ∀ (o : Option DropSlot) (m n : StationSet),
      (((o.map (fun d => { d with stations := setMinus d.stations m })).filter (fun d => d.stations ≠ 0#16)).map
        (fun d => { d with stations := setMinus d.stations n })).filter (fun d => d.stations ≠ 0#16) =
      (o.map (fun d => { d with stations := setMinus (setMinus d.stations m) n })).filter (fun d => d.stations ≠ 0#16) := by
    intro o m n
    rcases o with _ | d
    · rfl
    · by_cases hz : setMinus d.stations m = 0#16
      · have h0 : setMinus 0#16 n = 0#16 := by simp [setMinus]
        simp [Option.filter, hz, h0]
      · simp [Option.filter, hz]
  obtain ⟨first, hfirst⟩ : ∃ l : List EventRecord, l =
      (if s.tu.lock = (lockFrom b c p).1 then [] else [EventRecord.lock (lockFrom b c p).1]) ++
        (if s.tu.source = some x then [] else [EventRecord.reference x]) ++
        s.goneRecords (setMinus s.mu.members b.members) := ⟨_, rfl⟩
  have hparts : ((((s.adoptTiming x b).adoptMembers b).adoptRecord b).adoptInbound s.backEpoch) =
      (s.afterAdoption x b c g p).setLp { s.lp with
        counters := s.adoptionCounters b,
        raised := s.lp.raised ++ first } := by
    rw [hfirst, ← List.append_assoc]
    rw [adoptTiming_eq s x b c g p hc hg hp, adoptMembers_eq _ _ (by exact hm)]
    simp only [dropLoses_eq]
    rw [adoptRecord_eq _ b c _ _ (by exact hc) (by exact hm) rfl rfl,
      adoptInbound_eq _ s (adoptedRecord s.cu.record b).backEpoch (by rfl) (by rfl)]
    simp only [Link.without, hdrop]
    rfl
  have hrecords : s.adoptionRecords x b c p = first ++
      (if s.mu.synced = true ∧ (s.countFrom b c p ≠ s.tu.count ∨ b.members ≠ s.mu.members ∨
          some (adoptedRecord s.cu.record b).compared ≠ s.cu.record.map Record.compared) then
        [EventRecord.slip b.collecting (b.members ^^^ s.mu.members) (s.countFrom b c p - s.tu.count)]
      else []) := by
    rw [hfirst]
    rfl
  rw [State.adopt, hparts, hrecords, State.reportSlip]
  by_cases h : s.mu.synced = true ∧ (s.countFrom b c p ≠ s.tu.count ∨ b.members ≠ s.mu.members ∨
      some (adoptedRecord s.cu.record b).compared ≠ s.cu.record.map Record.compared)
  · rw [if_pos h, ← List.append_assoc]
    exact if_pos (And.intro hm h)
  · rw [if_neg h, List.append_nil]
    have h' := fun q : s.mu.state = .member ∧ _ => h q.2
    exact if_neg h'

end Sys2Proof.Machine
end

