-- ==== Sys2Proof/Laws/Memory.lean ====
section
/-! SUPPORT. The frame banks as memory: the canonical form is kept by every write, and a read after a write gives the byte
written inside the run and the byte that stood there outside it. -/

namespace Sys2Proof.Machine

/-- The empty memory is canonical. -/
theorem wf_nil : Memory.wf [] := by simp [Memory.wf]

/-- Reading at an address no cell names gives the unlisted byte. -/
theorem readByte_of_not_mem : ∀ (m : Memory) (a : Nat), (∀ c ∈ m, c.1 ≠ a) → readByte m a = unlistedByte
  | [], _, _ => rfl
  | (k, v) :: rest, a, h => by
    have hk : k ≠ a := h (k, v) (by simp)
    simp only [readByte, if_neg hk]
    exact readByte_of_not_mem rest a (fun c hc => h c (List.mem_cons_of_mem _ hc))

/-- A read in an appended memory: the front's cell if it has one. -/
theorem readByte_append (m n : Memory) (a : Nat) :
    readByte (m ++ n) a = if (∃ c ∈ m, c.1 = a) then readByte m a else readByte n a := by
  induction m with
  | nil => simp
  | cons c m ih =>
    obtain ⟨k, v⟩ := c
    by_cases h : k = a
    · simp [readByte, h]
    · simp only [List.cons_append, readByte, if_neg h, ih]
      by_cases h2 : ∃ c ∈ m, c.1 = a
      · have : ∃ c ∈ (k, v) :: m, c.1 = a := by
          obtain ⟨c, hc, he⟩ := h2
          exact ⟨c, List.mem_cons_of_mem _ hc, he⟩
        rw [if_pos h2, if_pos this]
      · have : ¬ ∃ c ∈ (k, v) :: m, c.1 = a := by
          rintro ⟨c, hc, he⟩
          rcases List.mem_cons.mp hc with rfl | hc
          · exact h he
          · exact h2 ⟨c, hc, he⟩
        rw [if_neg h2, if_neg this]

/-- Dropping cells that do not name the address does not change what it reads. -/
theorem readByte_filter (m : Memory) (p : Host.Cell → Bool) (a : Nat) (h : ∀ c : Host.Cell, c.1 = a → p c = true) :
    readByte (m.filter p) a = readByte m a := by
  induction m with
  | nil => rfl
  | cons c m ih =>
    obtain ⟨k, v⟩ := c
    by_cases hk : k = a
    · have hp : p (k, v) = true := h (k, v) hk
      rw [List.filter_cons_of_pos hp, readByte, readByte, if_pos hk, if_pos hk]
    · by_cases hp : p (k, v) = true
      · rw [List.filter_cons_of_pos hp, readByte, readByte, if_neg hk, if_neg hk, ih]
      · rw [List.filter_cons_of_neg hp, readByte, if_neg hk, ih]

/-- The cells of a run lie inside the run. -/
theorem cellsOf_range : ∀ (bs : List Byte) (a : Nat) (c : Host.Cell), c ∈ cellsOf a bs → a ≤ c.1 ∧ c.1 < a + bs.length
  | [], _, _, h => by simp [cellsOf] at h
  | b :: bs, a, c, h => by
    unfold cellsOf at h
    split at h
    · have := cellsOf_range bs (a + 1) c h
      simp only [List.length_cons]; omega
    · rcases List.mem_cons.mp h with rfl | h
      · simp
      · have := cellsOf_range bs (a + 1) c h
        simp only [List.length_cons]; omega

/-- The cells of a run are canonical. -/
theorem cellsOf_wf : ∀ (bs : List Byte) (a : Nat), Memory.wf (cellsOf a bs)
  | [], _ => wf_nil
  | b :: bs, a => by
    have ih := cellsOf_wf bs (a + 1)
    unfold cellsOf
    split
    · exact ih
    · rename_i hb
      refine ⟨?_, ?_⟩
      · refine List.pairwise_cons.mpr ⟨fun d hd => ?_, ih.1⟩
        have := cellsOf_range bs (a + 1) d hd
        simp only; omega
      · intro c hc
        rcases List.mem_cons.mp hc with rfl | hc
        · exact hb
        · exact ih.2 c hc

/-- Reading the cells of a run inside it gives the byte of the run. -/
theorem readByte_cellsOf : ∀ (bs : List Byte) (a i : Nat) (h : i < bs.length), readByte (cellsOf a bs) (a + i) = bs[i]
  | [], _, _, h => by simp at h
  | b :: bs, a, 0, _ => by
    unfold cellsOf
    split
    · rename_i hb
      have : readByte (cellsOf (a + 1) bs) (a + 0) = unlistedByte := by
        apply readByte_of_not_mem
        intro c hc
        have := cellsOf_range bs (a + 1) c hc
        omega
      rw [this, ← hb]; rfl
    · simp [readByte]
  | b :: bs, a, i + 1, h => by
    have hi : i < bs.length := by simpa using h
    have ih := readByte_cellsOf bs (a + 1) i hi
    have e : a + (i + 1) = a + 1 + i := by omega
    unfold cellsOf
    split
    · rw [e, ih]; rfl
    · have hne : a ≠ a + (i + 1) := by omega
      rw [readByte, if_neg hne, e, ih]; rfl

/-- A write keeps the canonical form. -/
theorem writeRun_wf (m : Memory) (start : Nat) (bs : List Byte) (h : Memory.wf m) : Memory.wf (writeRun m start bs) := by
  have hc := cellsOf_wf bs start
  refine ⟨?_, ?_⟩
  · unfold writeRun
    rw [List.append_assoc]
    refine List.pairwise_append.mpr ⟨h.1.filter _, ?_, ?_⟩
    · refine List.pairwise_append.mpr ⟨hc.1, h.1.filter _, ?_⟩
      intro c hcm d hd
      have h1 := cellsOf_range bs start c hcm
      have h2 := (List.mem_filter.mp hd).2
      simp only [decide_eq_true_eq] at h2
      omega
    · intro c hcm d hd
      have h1 := (List.mem_filter.mp hcm).2
      simp only [decide_eq_true_eq] at h1
      rcases List.mem_append.mp hd with hd | hd
      · have h2 := cellsOf_range bs start d hd
        omega
      · have h2 := (List.mem_filter.mp hd).2
        simp only [decide_eq_true_eq] at h2
        omega
  · intro c hcm
    unfold writeRun at hcm
    rcases List.mem_append.mp hcm with hcm | hcm
    · rcases List.mem_append.mp hcm with hcm | hcm
      · exact h.2 c (List.mem_filter.mp hcm).1
      · exact hc.2 c hcm
    · exact h.2 c (List.mem_filter.mp hcm).1

/-- Reading inside the run gives the byte written. -/
theorem readByte_writeRun_inside (m : Memory) (start : Nat) (bs : List Byte) (i : Nat) (h : i < bs.length) :
    readByte (writeRun m start bs) (start + i) = bs[i] := by
  unfold writeRun
  rw [List.append_assoc, readByte_append]
  have hfront : ¬ ∃ c ∈ m.filter (fun c => decide (c.1 < start)), c.1 = start + i := by
    rintro ⟨c, hc, he⟩
    have := (List.mem_filter.mp hc).2
    simp only [decide_eq_true_eq] at this
    omega
  rw [if_neg hfront, readByte_append]
  split
  · exact readByte_cellsOf bs start i h
  · rename_i hn
    have hb : readByte (cellsOf start bs) (start + i) = unlistedByte :=
      readByte_of_not_mem _ _ (fun c hc he => hn ⟨c, hc, he⟩)
    rw [readByte_cellsOf bs start i h] at hb
    rw [hb]
    apply readByte_of_not_mem
    intro c hc
    have := (List.mem_filter.mp hc).2
    simp only [decide_eq_true_eq] at this
    omega

/-- Reading outside the run gives the byte that stood there. -/
theorem readByte_writeRun_outside (m : Memory) (start : Nat) (bs : List Byte) (a : Nat)
    (h : a < start ∨ start + bs.length ≤ a) : readByte (writeRun m start bs) a = readByte m a := by
  unfold writeRun
  have hmid : ∀ c ∈ cellsOf start bs, c.1 ≠ a := by
    intro c hc
    have := cellsOf_range bs start c hc
    omega
  rcases h with h | h
  · rw [List.append_assoc, readByte_append]
    have hf := readByte_filter m (fun c => decide (c.1 < start)) a (by intro c hc; simp; omega)
    split
    · exact hf
    · rename_i hn
      have hz : readByte (m.filter (fun c => decide (c.1 < start))) a = unlistedByte :=
        readByte_of_not_mem _ _ (fun c hc he => hn ⟨c, hc, he⟩)
      rw [← hf, hz]
      apply readByte_of_not_mem
      intro c hc
      rcases List.mem_append.mp hc with hc | hc
      · exact hmid c hc
      · have := (List.mem_filter.mp hc).2
        simp only [decide_eq_true_eq] at this
        omega
  · rw [readByte_append]
    have hn : ¬ ∃ c ∈ m.filter (fun c => decide (c.1 < start)) ++ cellsOf start bs, c.1 = a := by
      rintro ⟨c, hc, he⟩
      rcases List.mem_append.mp hc with hc | hc
      · have := (List.mem_filter.mp hc).2
        simp only [decide_eq_true_eq] at this
        omega
      · exact hmid c hc he
    rw [if_neg hn]
    exact readByte_filter m _ a (by intro c hc; simp; omega)

/-- A write of pixels keeps the canonical form. -/
theorem writePixels_wf (m : Memory) (row start : Nat) (ps : List Pixel) (h : Memory.wf m) :
    Memory.wf (writePixels m row start ps) := by
  unfold writePixels
  split
  · exact writeRun_wf m _ _ h
  · exact h

/-! ## Pixels -/

/-- A number of at most 24 bits, as three bytes and back. -/
theorem pixel_bytes_back (p : Pixel) : pixelOfBytes (pixelBytes p) = p := by
  have hp := p.isLt
  apply BitVec.eq_of_toNat_eq
  simp [pixelOfBytes, pixelBytes, natToBytes, bytesToNat, BitVec.toNat_ofNat]
  omega

/-- A pixel is three bytes. -/
@[simp] theorem pixelBytes_length (p : Pixel) : (pixelBytes p).length = 3 := rfl

/-- The bytes of pixels, three each. -/
theorem flatMap_pixelBytes_length (ps : List Pixel) : (ps.flatMap pixelBytes).length = 3 * ps.length := by
  induction ps with
  | nil => rfl
  | cons p ps ih => simp only [List.flatMap_cons, List.length_append, ih, pixelBytes_length, List.length_cons]; omega

/-- The byte of a pixel in the bytes of pixels. -/
theorem flatMap_pixelBytes_get : ∀ (ps : List Pixel) (i k : Nat) (hi : i < ps.length) (hk : k < 3),
    (ps.flatMap pixelBytes)[3 * i + k]'(by rw [flatMap_pixelBytes_length]; omega) = (pixelBytes ps[i])[k]'(by simp [hk])
  | [], _, _, hi, _ => by simp at hi
  | p :: ps, 0, k, _, hk => by
    simp only [List.flatMap_cons]
    rw [List.getElem_append_left (by simp; omega)]
    simp
  | p :: ps, i + 1, k, hi, hk => by
    simp only [List.flatMap_cons]
    rw [List.getElem_append_right (by simp; omega)]
    have ih := flatMap_pixelBytes_get ps i k (by simpa using hi) hk
    have e : 3 * (i + 1) + k - (pixelBytes p).length = 3 * i + k := by
      have := pixelBytes_length p
      omega
    simp only [e, List.getElem_cons_succ]
    exact ih

/-- A pixel written reads back. -/
theorem readPixel_writePixels_inside (m : Memory) (row start : Nat) (ps : List Pixel) (i : Nat) (hi : i < ps.length)
    (hr : row < Config.bankRows) (hs : start + ps.length ≤ Config.bankColumns) :
    readPixel (writePixels m row start ps) row (start + i) = ps[i] := by
  have hlen := flatMap_pixelBytes_length ps
  have e : ∀ k, pixelAddress row (start + i) + k = pixelAddress row start + (3 * i + k) := by
    intro k; simp only [pixelAddress]; omega
  have g : ∀ k (hk : k < 3), readByte (writeRun m (pixelAddress row start) (ps.flatMap pixelBytes))
      (pixelAddress row (start + i) + k) = (pixelBytes ps[i])[k]'(by simp [hk]) := by
    intro k hk
    rw [e k, readByte_writeRun_inside _ _ _ _ (by omega)]
    exact flatMap_pixelBytes_get ps i k hi hk
  have g0 := g 0 (by omega)
  have g1 := g 1 (by omega)
  have g2 := g 2 (by omega)
  simp only [Nat.add_zero] at g0
  unfold readPixel writePixels
  rw [if_pos ⟨hr, hs⟩]
  simp only [g0, g1, g2]
  exact pixel_bytes_back ps[i]

/-- A pixel of another place reads as before. -/
theorem readPixel_writePixels_outside (m : Memory) (row start : Nat) (ps : List Pixel) (r c : Nat)
    (hc : c < Config.bankColumns) (h : r ≠ row ∨ c < start ∨ start + ps.length ≤ c) :
    readPixel (writePixels m row start ps) r c = readPixel m r c := by
  unfold writePixels
  split
  · rename_i hin
    have hlen := flatMap_pixelBytes_length ps
    have hb : Config.bankColumns = 512 := rfl
    have g : ∀ k, k < 3 → readByte (writeRun m (pixelAddress row start) (ps.flatMap pixelBytes)) (pixelAddress r c + k) =
        readByte m (pixelAddress r c + k) := by
      intro k hk
      apply readByte_writeRun_outside
      rw [hlen]
      simp only [pixelAddress, hb] at *
      rcases h with h | h | h
      · rcases Nat.lt_or_gt_of_ne h with h | h
        · left; omega
        · right; omega
      · by_cases hrr : r = row
        · left; subst hrr; omega
        · rcases Nat.lt_or_gt_of_ne hrr with h' | h'
          · left; omega
          · right; omega
      · by_cases hrr : r = row
        · right; subst hrr; omega
        · rcases Nat.lt_or_gt_of_ne hrr with h' | h'
          · left; omega
          · right; omega
    have g0 := g 0 (by omega)
    simp only [Nat.add_zero] at g0
    unfold readPixel
    simp only [g0, g 1 (by omega), g 2 (by omega)]
  · rfl

end Sys2Proof.Machine
end

