-- ==== Sys2Proof/Laws/Banks.lean ====
section
/-! SUPPORT. The canonical form of the banks, kept by every operation on the Frame Store. -/

namespace Sys2Proof.Machine

/-! ## The shared operations -/

theorem setBank_canonical (f : FrameStore) (bank : Bank) (m : Memory) (h : f.Canonical) (hm : Memory.wf m) :
    (f.setBank bank m).Canonical := by
  cases bank
  · exact ⟨hm, h.2⟩
  · exact ⟨h.1, hm⟩

theorem bank_wf (f : FrameStore) (bank : Bank) (h : f.Canonical) : Memory.wf (f.bank bank) := by
  cases bank
  · exact h.1
  · exact h.2

/-- The canonical form looks at the banks alone. -/
theorem canonical_of_banks (f g : FrameStore) (h : f.Canonical) (ha : g.bankA = f.bankA) (hb : g.bankB = f.bankB) :
    g.Canonical := by
  unfold FrameStore.Canonical at *
  rw [ha, hb]
  exact h

@[simp] theorem writeBank_canonical (s : State) (bank : Bank) (row start : Nat) (ps : List Pixel)
    (h : s.fs.Canonical) : (s.writeBank bank row start ps).fs.Canonical :=
  setBank_canonical _ _ _ h (writePixels_wf _ _ _ _ (bank_wf _ _ h))

@[simp] theorem abandonOperation_canonical (s : State) (h : s.fs.Canonical) : s.abandonOperation.fs.Canonical := by
  unfold State.abandonOperation
  split
  · exact h
  · exact canonical_of_banks _ _ (writeBank_canonical s _ _ _ _ h) rfl rfl

@[simp] theorem beginOperation_canonical (s : State) (q : Requester) (h : s.fs.Canonical) :
    (s.beginOperation q).fs.Canonical := by
  unfold State.beginOperation FrameStore.dirtied
  dsimp only
  (repeat' split) <;> exact h

@[simp] theorem teardown_canonical (s : State) (st : StationState) (c : Cause) (h : s.fs.Canonical) :
    (s.teardown st c).fs.Canonical := by
  have := abandonOperation_canonical s h
  simp only [State.teardown, State.setHanded_fs, State.setLp_fs, State.setWe_fs, State.setFs_fs, State.setCu_fs,
    State.setTu_fs, State.setLc_fs, State.setMu_fs, State.setLock_frame]
  exact canonical_of_banks _ _ this rfl rfl

@[simp] theorem enterConflict_canonical (s : State) (b : Bool) (h : s.fs.Canonical) :
    (s.enterConflict b).fs.Canonical := by
  simp [State.enterConflict, h]

@[simp] theorem evict_canonical (s : State) (b : Bool) (h : s.fs.Canonical) : (s.evict b).fs.Canonical := by
  simp [State.evict, h]

@[simp] theorem detach_canonical (s : State) (h : s.fs.Canonical) : s.detach.fs.Canonical := by
  simp [State.detach, h]

@[simp] theorem enterListen_canonical (s : State) (h : s.fs.Canonical) : s.enterListen.fs.Canonical :=
  canonical_of_banks _ _ h rfl rfl

@[simp] theorem takeFlip_canonical (s : State) (r : Record) (l : LastCommit) (h : s.fs.Canonical) :
    (s.takeFlip r l).fs.Canonical := by
  simp only [State.takeFlip, State.reportLateness_frame, State.reportFlip_frame, State.passFlip_frame, State.swapBanks,
    State.setFs_fs]
  exact canonical_of_banks _ _ h rfl rfl

@[simp] theorem flipBody_canonical (s : State) (h : s.fs.Canonical) : s.flipBody.fs.Canonical := by
  unfold State.flipBody
  dsimp only
  (repeat' split) <;> first | exact h | simp [h]

@[simp] theorem bankClearEndBody_canonical (s : State) (h : s.fs.Canonical) : s.bankClearEndBody.fs.Canonical := by
  unfold State.bankClearEndBody
  split
  · exact canonical_of_banks _ _ h rfl rfl
  · exact h

@[simp] theorem grantBody_canonical (s : State) (h : s.fs.Canonical) : s.grantBody.fs.Canonical := by
  unfold State.grantBody
  split <;> simp [h]

@[simp] theorem settle_canonical (s : State) (h : s.fs.Canonical) : (settle s).fs.Canonical := by
  unfold settle
  dsimp only
  simp only [closeEvent_frame]
  refine grantBody_canonical _ ?_
  simp only [closeEvent_frame, State.readyQueuedBody_frame, State.waitingSpanBody_frame, State.joiningPassageBody_frame]
  refine bankClearEndBody_canonical _ ?_
  simp only [closeEvent_frame, State.readyWaitBody_frame, State.beaconLossBody_frame, State.lockLossBody_frame,
    State.flipPassedBody_frame]
  exact flipBody_canonical _ h

/-! ## The parts of the commands -/

@[simp] theorem clearRow_canonical (s : State) (k : BankClear) (h : s.fs.Canonical) : (s.clearRow k).fs.Canonical :=
  ⟨writePixels_wf _ _ _ _ h.1, writePixels_wf _ _ _ _ h.2⟩

@[simp] theorem bankClearRowBody_canonical (s : State) (h : s.fs.Canonical) : s.bankClearRowBody.fs.Canonical := by
  unfold State.bankClearRowBody
  split <;> simp [h]

@[simp] theorem carried_canonical (s : State) (row : Nat) (h : s.fs.Canonical) : (s.carried row).fs.Canonical :=
  canonical_of_banks _ _ h rfl rfl

@[simp] theorem inboundTold_canonical (s : State) (h : s.fs.Canonical) : s.inboundTold.fs.Canonical := by
  unfold State.inboundTold
  (repeat' split) <;> exact h

@[simp] theorem tell_canonical (s : State) (o : Operation) (h : s.fs.Canonical) : (s.tell o).fs.Canonical := by
  unfold State.tell
  split <;> simp [h]

@[simp] theorem landOperation_canonical (s : State) (o : Operation) (h : s.fs.Canonical) :
    (s.landOperation o).fs.Canonical := by
  simp [State.landOperation, h]

@[simp] theorem beginWrite_canonical (s : State) (o : Operation) (h : s.fs.Canonical) :
    (s.beginWrite o).fs.Canonical := by
  unfold State.beginWrite FrameStore.dirtied
  dsimp only
  split <;> exact canonical_of_banks _ _ h rfl rfl

@[simp] theorem operationEndBody_canonical (s : State) (v : Bool) (h : s.fs.Canonical) :
    (s.operationEndBody v).fs.Canonical := by
  unfold State.operationEndBody
  dsimp only
  split
  · exact h
  · rename_i o _
    have hl : ((s.latchSlots v).landOperation o).fs.Canonical := by simp [h]
    split
    · simp [hl]
    · refine tell_canonical _ _ ?_
      exact canonical_of_banks _ _ hl rfl rfl

@[simp] theorem applyJoin_canonical (s : State) (x : Station) (b : JoinBody) (h : s.fs.Canonical) :
    (s.applyJoin x b).fs.Canonical := by
  unfold State.applyJoin
  (repeat' split) <;> simp [h]

@[simp] theorem settleJoin_canonical (s : State) (h : s.fs.Canonical) : s.settleJoin.fs.Canonical := by
  unfold State.settleJoin
  split <;> simp [h]

@[simp] theorem applyDrop_canonical (s : State) (b : DropBody) (h : s.fs.Canonical) :
    (s.applyDrop b).fs.Canonical := by
  unfold State.applyDrop
  dsimp only
  (repeat' split) <;> simp [h]

@[simp] theorem adoptInbound_canonical (s : State) (old : Option Epoch) (h : s.fs.Canonical) :
    (s.adoptInbound old).fs.Canonical := by
  unfold State.adoptInbound
  (repeat' split) <;> exact h

@[simp] theorem adopt_canonical (s : State) (x : Station) (b : BeaconBody) (h : s.fs.Canonical) :
    (s.adopt x b).fs.Canonical := by
  simp [State.adopt, h]

@[simp] theorem applyBeacon_canonical (s : State) (x : Station) (b : BeaconBody) (h : s.fs.Canonical) :
    (s.applyBeacon x b).fs.Canonical := by
  unfold State.applyBeacon
  (repeat' split) <;> simp [h]

@[simp] theorem placeEntry_canonical (s : State) (x : Station) (b : PaintBody) (h : s.fs.Canonical) :
    (s.placeEntry x b).fs.Canonical := by
  unfold State.placeEntry
  (repeat' split) <;> first | (simp [h]; done) | exact canonical_of_banks _ _ h rfl rfl

@[simp] theorem deliver_canonical (s : State) (x : Station) (took : Bool) (b : Body) (h : s.fs.Canonical) :
    (s.deliver x took b).fs.Canonical := by
  unfold State.deliver
  (repeat' split) <;> simp [h]

@[simp] theorem hear_canonical (s : State) (k : FrameKind) (e : FrameEnd) (v : SlotView) (h : s.fs.Canonical) :
    (s.hear k e v).fs.Canonical := by
  unfold State.hear State.joiningConflict
  dsimp only
  (repeat' split) <;> simp [h]

@[simp] theorem receive_canonical (s : State) (k : FrameKind) (e : FrameEnd) (v : SlotView) (h : s.fs.Canonical) :
    (s.receive k e v).fs.Canonical := by
  unfold State.receive
  (repeat' split) <;> simp [h]

@[simp] theorem ownFrame_canonical (s : State) (a : Attempt) (e : FrameEnd) (h : s.fs.Canonical) :
    (s.ownFrame a e).fs.Canonical := by
  unfold State.ownFrame State.ownBeacon State.ownDrop State.ownLeave State.ownJoin
  dsimp only
  (repeat' split) <;> simp [h]

@[simp] theorem endFrame_canonical (s : State) (k : FrameKind) (e : FrameEnd) (h : s.fs.Canonical) :
    (s.endFrame k e).fs.Canonical := by
  unfold State.endFrame
  dsimp only
  (repeat' split) <;> simp [h]

@[simp] theorem load_canonical (s : State) (c : Configuration) (h : s.fs.Canonical) : (s.load c).fs.Canonical := by
  simp [State.load, h]

@[simp] theorem conclude_canonical (s : State) (v : Except FaultReason Configuration) (h : s.fs.Canonical) :
    (s.conclude v).fs.Canonical := by
  unfold State.conclude
  split <;> simp [h]

@[simp] theorem eepromByteBody_canonical (s : State) (v : Byte) (h : s.fs.Canonical) :
    (s.eepromByteBody v).fs.Canonical := by
  unfold State.eepromByteBody
  dsimp only
  (repeat' split) <;> simp [h]

@[simp] theorem hardReset_canonical (s : State) (low : Bool) (h : s.fs.Canonical) :
    (s.hardReset low).fs.Canonical :=
  canonical_of_banks _ _ (abandonOperation_canonical s h) rfl rfl

@[simp] theorem softResetBody_canonical (s : State) (h : s.fs.Canonical) : s.softResetBody.fs.Canonical := by
  have h' := abandonOperation_canonical s h
  unfold State.softResetBody State.afterSoftReset
  dsimp only
  split <;> exact canonical_of_banks _ _ h' rfl rfl

@[simp] theorem judgeJoin_canonical (s : State) (h : s.fs.Canonical) : s.judgeJoin.1.fs.Canonical := by
  unfold State.judgeJoin
  split <;> simp [h]

@[simp] theorem judgeConfigEnd_canonical (s : State) (l : List Byte) (h : s.fs.Canonical) :
    (s.judgeConfigEnd l).1.fs.Canonical := by
  unfold State.judgeConfigEnd
  (repeat' split) <;> simp [h]

/-- An event keeps the canonical form when its body does. -/
theorem event_canonical (dt : Nat) (body : State → State) (hb : ∀ s : State, s.fs.Canonical → (body s).fs.Canonical)
    (s t : State) (h : s.fs.Canonical) (he : event dt body s = .next t) : t.fs.Canonical := by
  injection he with he
  subst he
  simp only [closeEvent_frame]
  exact hb _ (by simp [h])

/-- So does a row that follows inside an event. -/
theorem followOn_canonical (body : State → State) (hb : ∀ s : State, s.fs.Canonical → (body s).fs.Canonical)
    (s t : State) (h : s.fs.Canonical) (he : followOn body s = .next t) : t.fs.Canonical := by
  injection he with he
  subst he
  simp only [closeEvent_frame]
  exact hb _ h

@[simp] theorem frameCutShortBody_canonical (b : Bool) (s : State) (h : s.fs.Canonical) :
    (s.frameCutShortBody b).fs.Canonical := by
  unfold State.frameCutShortBody
  dsimp only
  (repeat' split) <;> simp [h]

/-- Every command's own part keeps the canonical form. -/
theorem effectOf_canonical (c : Instr) (s : State) (h : s.fs.Canonical) : (effectOf c s).fs.Canonical := by
  have hj : ∀ (judge : State → Judged) (t : Tail) (n : Nat), (∀ u : State, u.fs.Canonical → (judge u).1.fs.Canonical) →
      (s.judged (fun s => exactLength t n s judge)).fs.Canonical := by
    intro judge t n hk
    refine judged_keeps (fun u => u.fs.Canonical) _ (fun u _ _ hu => by simpa using hu) (fun u _ hu => by simpa using hu) ?_ s h
    intro u hu
    unfold exactLength
    split
    · exact hk u hu
    · exact hu
  cases c <;> dsimp only [effectOf]
  case powerOn => simp [State.powerOnBody, h]
  case resetPinAssert => unfold State.resetAssertBody; split <;> simp [h]
  case softReset => exact hj _ _ _ (fun u hu => by simp [State.judgeSoftReset, hu])
  case nop => exact hj _ _ _ (fun u hu => hu)
  case setWindow => exact hj _ _ _ (fun u hu => by simpa using hu)
  case fill => exact hj _ _ _ (fun u hu => by simpa using hu)
  case present => exact hj _ _ _ (fun u hu => by simpa using hu)
  case leave => exact hj _ _ _ (fun u hu => by simpa using hu)
  case join => exact hj _ _ _ (fun u hu => by simp [hu])
  case configEnd => exact hj _ _ _ (fun u hu => by simp [hu])
  case configRecord =>
    refine judged_keeps (fun u => u.fs.Canonical) _ (fun u _ _ hu => by simpa using hu) (fun u _ hu => by simpa using hu) ?_ s h
    intro u hu
    split
    · simpa using hu
    · exact hu
  case unknown =>
    exact judged_keeps (fun u => u.fs.Canonical) _ (fun u _ _ hu => by simpa using hu) (fun u _ hu => by simpa using hu) (fun u hu => hu) s h
  all_goals simp [h]

end Sys2Proof.Machine
end

