-- ==== Sys2Proof/Laws/Capacity.lean ====
section
/-! SUPPORT. The bounds of the queues, buffers and saturating counts, kept by every operation. -/

namespace Sys2Proof.Machine

/-! ## The Outbound Queue (R156) -/

/-- The Outbound Queue holds at most 48 entries. -/
def Link.Fits (l : Link) : Prop := l.outbound.length ≤ 48

theorem fits_of_outbound (l m : Link) (h : l.Fits) (e : m.outbound = l.outbound) : m.Fits := by
  unfold Link.Fits at *
  rw [e]
  exact h

@[simp] theorem offerRun_outbound (s : State) (r : Run) (h : s.lc.Fits) : (s.offerRun r).lc.Fits := by
  unfold State.offerRun
  (repeat' split) <;> first | exact h | skip
  rename_i hl
  simp only [State.setLc_lc, Link.Fits, List.length_append, List.length_singleton]
  have : Config.outboundCapacity = 48 := rfl
  omega

@[simp] theorem closeOpenRun_outbound (s : State) (h : s.lc.Fits) : s.closeOpenRun.lc.Fits := by
  unfold State.closeOpenRun
  (repeat' split) <;> simp [h]

@[simp] theorem setSlots_outbound (s : State) (v : Slots) (h : s.lc.Fits) : (s.setSlots v).lc.Fits :=
  fits_of_outbound _ _ h rfl

@[simp] theorem requestDrop_outbound (s : State) (m : StationSet) (h : s.lc.Fits) : (s.requestDrop m).lc.Fits := by
  unfold State.requestDrop
  split <;> simp [h]

@[simp] theorem dropLoses_outbound (s : State) (m : StationSet) (h : s.lc.Fits) : (s.dropLoses m).lc.Fits := by
  unfold State.dropLoses
  (repeat' split) <;> simp [h]

@[simp] theorem freshAddressee_outbound (s : State) (x : Station) (h : s.lc.Fits) : (s.freshAddressee x).lc.Fits :=
  fits_of_outbound _ _ h rfl

@[simp] theorem emptied_outbound (l : Link) : l.emptied.Fits := by simp [Link.Fits, Link.emptied]

@[simp] theorem teardown_outbound (s : State) (st : StationState) (c : Cause) : (s.teardown st c).lc.Fits := by
  simp [State.teardown]

@[simp] theorem enterConflict_outbound (s : State) (b : Bool) : (s.enterConflict b).lc.Fits := by
  simp [State.enterConflict]

@[simp] theorem evict_outbound (s : State) (b : Bool) : (s.evict b).lc.Fits := by simp [State.evict]

@[simp] theorem detach_outbound (s : State) : s.detach.lc.Fits := by simp [State.detach]

@[simp] theorem enterListen_outbound (s : State) : s.enterListen.lc.Fits := by simp [State.enterListen]

@[simp] theorem commit_outbound (s : State) (r : Record) (k : Completing) (h : s.lc.Fits) : (s.commit r k).lc.Fits := by
  simp [State.commit, h]

@[simp] theorem completionCheck_outbound (s : State) (k : Completing) (h : s.lc.Fits) : (s.completionCheck k).lc.Fits := by
  unfold State.completionCheck
  (repeat' split) <;> simp [h]

@[simp] theorem withoutEntries_outbound (s : State) (x : Station) (h : s.lc.Fits) : (s.withoutEntries x).lc.Fits := by
  unfold State.withoutEntries
  simp only [State.setWe_lc]
  refine freshAddressee_outbound _ _ ?_
  unfold Link.Fits at *
  simp only [State.setLc_lc]
  exact (List.length_filter_le _ _).trans h

@[simp] theorem discardFor_outbound (s : State) (x : Station) (h : s.lc.Fits) : (s.discardFor x).lc.Fits := by
  simp [State.discardFor, h]

theorem foldl_discardFor_outbound (l : List Station) : ∀ (s : State), s.lc.Fits → (l.foldl State.discardFor s).lc.Fits := by
  induction l with
  | nil => intro s h; simpa using h
  | cons x l ih => intro s h; exact ih _ (by simp [h])

@[simp] theorem handOnRemovals_outbound (s : State) (m : StationSet) (h : s.lc.Fits) : (s.handOnRemovals m).lc.Fits :=
  foldl_discardFor_outbound _ _ (by simp [h])

@[simp] theorem rankRetest_outbound (s : State) (h : s.lc.Fits) : s.rankRetest.lc.Fits := by
  unfold State.rankRetest
  split <;> simp [h]

@[simp] theorem latchSlots_outbound (s : State) (v : Bool) (h : s.lc.Fits) : (s.latchSlots v).lc.Fits := by
  unfold State.latchSlots
  split
  · exact fits_of_outbound _ _ h rfl
  · exact h

@[simp] theorem beaconLossBody_outbound (s : State) (h : s.lc.Fits) : s.beaconLossBody.lc.Fits := by
  unfold State.beaconLossBody
  split <;> simp [h]

@[simp] theorem readyWaitBody_outbound (s : State) (h : s.lc.Fits) : s.readyWaitBody.lc.Fits := by
  unfold State.readyWaitBody
  dsimp only
  (repeat' split) <;> simp [h]

@[simp] theorem joiningPassageBody_outbound (s : State) (h : s.lc.Fits) : s.joiningPassageBody.lc.Fits := by
  unfold State.joiningPassageBody
  split <;> simp [h]

@[simp] theorem waitingSpanBody_outbound (s : State) (h : s.lc.Fits) : s.waitingSpanBody.lc.Fits := by
  unfold State.waitingSpanBody
  have : Config.outboundCapacity = 48 := rfl
  simp only [State.setWe_lc, State.setLc_lc, Link.Fits, List.length_append, List.length_map, State.admissibleSpans,
    List.length_take, State.outboundRoom] at *
  omega

@[simp] theorem readyQueuedBody_outbound (s : State) (h : s.lc.Fits) : s.readyQueuedBody.lc.Fits := by
  unfold State.readyQueuedBody
  split <;> simp [h]

@[simp] theorem settle_outbound (s : State) (h : s.lc.Fits) : (settle s).lc.Fits := by
  simp (maxDischargeDepth := 40) [settle, h]

@[simp] theorem judgeFill_outbound (s : State) (l : List Byte) (h : s.lc.Fits) : (s.judgeFill l).1.lc.Fits := by
  unfold State.judgeFill
  dsimp only
  (repeat' split) <;> first | exact h | skip
  rename_i hl
  have : Config.outboundCapacity = 48 := rfl
  simp only [State.setWe_lc, State.setLc_lc, Link.Fits, List.length_append]
  omega

end Sys2Proof.Machine
end

