-- ==== Sys2Proof/Laws/Marks.lean ====
section
/-! SUPPORT. The marks of a link frame (R17, R22): how many periods they add, where they stand, and that a receiver reads the
fields back between them. -/

namespace Sys2Proof

open Sys2Proof.Machine

@[simp] theorem byteBits_length (b : Byte) : (byteBits b).length = 8 := by simp [byteBits]

@[simp] theorem nibbleBits_length (b : BitVec 4) : (nibbleBits b).length = 4 := by simp [nibbleBits]

@[simp] theorem bytesBits_length (bs : List Byte) : (bytesBits bs).length = 8 * bs.length := by
  simp [bytesBits, List.length_flatMap, Nat.mul_comm]

theorem WireFrame.bits_length (f : WireFrame) : f.bits.length = 42 + 8 * f.body.length := by
  have : (natToBytes 2 f.crc.toNat).length = 2 := rfl
  simp [WireFrame.bits, WireFrame.coveredBits, this]
  omega

/-- Fewer than eight bits are left. -/
theorem length_of_no_octet (bits : List Bool)
    (hb : ∀ (a b c d e f g h : Bool) (rest : List Bool), bits = a :: b :: c :: d :: e :: f :: g :: h :: rest → False) :
    bits.length < 8 := by
  rcases bits with _ | ⟨a, _ | ⟨b, _ | ⟨c, _ | ⟨d, _ | ⟨e, _ | ⟨f, _ | ⟨g, _ | ⟨h, rest⟩⟩⟩⟩⟩⟩⟩⟩
  case cons.cons.cons.cons.cons.cons.cons.cons => exact absurd rfl (hb a b c d e f g h rest)
  all_goals simp

theorem unmarked_of_short (bits : List Bool) (h : bits.length < 8) : unmarked bits = some bits := by
  rcases bits with _ | ⟨a, _ | ⟨b, _ | ⟨c, _ | ⟨d, _ | ⟨e, _ | ⟨f, _ | ⟨g, _ | ⟨h, rest⟩⟩⟩⟩⟩⟩⟩⟩
  case cons.cons.cons.cons.cons.cons.cons.cons => simp only [List.length_cons] at h; omega
  all_goals rfl

theorem withMarks_length (bits : List Bool) : (withMarks bits).length = bits.length + bits.length / 8 := by
  fun_induction withMarks bits with
  | case1 a b c d e f g h rest ih =>
    simp only [List.length_cons, ih]
    omega
  | case2 bits hb =>
    have := length_of_no_octet bits hb
    omega

theorem unmarked_withMarks (bits : List Bool) : unmarked (withMarks bits) = some bits := by
  fun_induction withMarks bits with
  | case1 a b c d e f g h rest ih => simp [unmarked, ih]
  | case2 bits hb => exact unmarked_of_short bits (length_of_no_octet bits hb)

/-- The mark after the (i + 1)th group of eight bits. -/
theorem withMarks_mark (bits : List Bool) (i : Nat) (h : i < bits.length / 8) :
    (withMarks bits)[9 * i + 8]? = some driven := by
  fun_induction withMarks bits generalizing i with
  | case1 a b c d e f g h rest ih =>
    cases i with
    | zero => rfl
    | succ i =>
      have : 9 * (i + 1) + 8 = 9 * i + 8 + 9 := by omega
      rw [this]
      simp only [List.getElem?_cons_succ]
      refine ih i ?_
      simp only [List.length_cons] at h
      omega
  | case2 bits hb =>
    have := length_of_no_octet bits hb
    omega

/-- A mark position that reads released is found (R22). -/
theorem unmarked_released (bits : List Bool) (i : Nat) (h : i < bits.length / 8) :
    unmarked ((withMarks bits).set (9 * i + 8) released) = none := by
  fun_induction withMarks bits generalizing i with
  | case1 a b c d e f g h rest ih =>
    cases i with
    | zero => simp [unmarked, released, driven]
    | succ i =>
      have : 9 * (i + 1) + 8 = 9 * i + 8 + 9 := by omega
      rw [this]
      simp only [List.set_cons_succ, unmarked, if_true]
      rw [ih i (by simp only [List.length_cons] at h; omega)]
      rfl
  | case2 bits hb =>
    have := length_of_no_octet bits hb
    omega

theorem WireFrame.sent_length (f : WireFrame) : f.sent.length = 49 + 9 * f.body.length := by
  simp only [WireFrame.sent, List.length_cons, List.length_append, withMarks_length, WireFrame.bits_length, List.length_nil]
  omega

end Sys2Proof
end

