-- ==== Sys2Proof/Laws/Received.lean ====
section
/-! SUPPORT. A frame as it was built, and what a station that hears it whole makes of it: one lemma for each. -/

namespace Sys2Proof.Machine

/-- A frame of a kind from a station with a body, its length agreeing and its CRC right. -/
structure SoundFrame (f : WireFrame) (k : FrameKind) (x : Station) (bs : List Byte) : Prop where
  kind : f.kind = k.code
  cls : f.cls = k.cls
  sender : f.sender = x
  body : f.body = bs
  length : f.lengthFound = true
  crc : f.crcComputed = f.crc

/-- Every frame is built so (R17, R25, R26). -/
theorem makeFrame_sound (k : FrameKind) (x : Station) (bs : List Byte) (h : bs.length ≤ 200) :
    SoundFrame (makeFrame k x bs) k x bs where
  kind := by unfold makeFrame; rfl
  cls := by unfold makeFrame; rfl
  sender := by unfold makeFrame WireFrame.sender; rfl
  body := by unfold makeFrame; rfl
  length := by
    simp only [WireFrame.lengthFound, makeFrame, BitVec.toNat_ofNat, beq_self_eq_true, Bool.true_and, decide_eq_true_eq]
    omega
  crc := by simp only [makeFrame, WireFrame.crcComputed, WireFrame.coveredBits]

/-- A sound frame of another station, of a readable body for which this station drives TAKE, is delivered to it (R26 to R28). -/
theorem endFrame_heard (dt : Nat) (s u : State) (k : FrameKind) (x : Station) (bs : List Byte) (f : WireFrame) (body : Body)
    (take : Bool) (hf : SoundFrame f k x bs) (hr : s.Receiving) (hm : s.mu.state.hears = true) (hx : x ≠ s.self)
    (hb : readBody s.heldMap k x bs = some body) (hun : s.unequalJoin k f s.mu.state = false)
    (ht : s.slotViewNow.takes s.self x body = true) (hu : u = { s with now := s.now + dt, lc := s.lc.afterFrame }) :
    State.endFrame k ⟨f, take, false⟩ (s.advance dt) = u.deliver x true body := by
  obtain ⟨_, hv, hfl, hsv⟩ := hr
  have hcb : u.checkedBody k f = some body := by
    have hself : u.self = s.self := by rw [hu]; rfl
    have hmap : u.heldMap = s.heldMap := by rw [hu]; rfl
    simp only [State.checkedBody, hf.kind, hf.cls, hf.sender, hf.body, hf.crc, true_and, hself, hmap, hb, if_pos hx]
  have hlc : (s.advance dt).lc = s.lc := rfl
  have hadv : (s.advance dt).setLc s.lc.afterFrame = u := by rw [hu]; rfl
  have hmu : u.mu = s.mu := by rw [hu]
  have hun' : u.unequalJoin k f (s.advance dt).slotViewNow.state = false := by rw [hu]; exact hun
  have ht' : (s.advance dt).slotViewNow.takes u.self x body = true := by rw [hu]; exact ht
  rw [State.endFrame, if_pos (show (s.advance dt).lc.view = .inFrame from hv)]
  simp only [hlc, hsv, hfl, roleIn, Option.getD_none, hadv, State.receive, hmu, hm, if_true, State.hear, hf.length, hun', hcb,
    hf.sender, ht', true_or, reduceCtorEq, Bool.false_eq_true, if_false]

end Sys2Proof.Machine
end

