-- ==== Sys2Proof/Laws/Rows.lean ====
section
/-! SUPPORT. The order of the row sets and the bound of the inbound queue, kept by every operation on the Frame Store. -/

namespace Sys2Proof.Machine

/-- The row sets ascend, and the inbound queue holds at most 16 entries (R131). -/
def FrameStore.Orderly (f : FrameStore) : Prop := f.RowsAscending ∧ f.inbound.length ≤ 16

/-! ## Row sets -/

theorem mem_insertRow (r x : Nat) (l : List Nat) : x ∈ insertRow r l ↔ x = r ∨ x ∈ l := by
  induction l with
  | nil => simp [insertRow]
  | cons y ys ih =>
    unfold insertRow
    split
    · simp
    · split
      · rename_i h
        subst h
        simp
      · simp only [List.mem_cons, ih]
        tauto

theorem insertRow_pairwise (r : Nat) (l : List Nat) (h : l.Pairwise (· < ·)) : (insertRow r l).Pairwise (· < ·) := by
  induction l with
  | nil => simp [insertRow]
  | cons x xs ih =>
    rw [List.pairwise_cons] at h
    unfold insertRow
    split
    · rename_i hr
      rw [List.pairwise_cons, List.pairwise_cons]
      refine ⟨?_, h⟩
      intro y hy
      rcases List.mem_cons.mp hy with rfl | hy
      · exact hr
      · exact hr.trans (h.1 y hy)
    · split
      · rw [List.pairwise_cons]; exact h
      · rename_i h1 h2
        rw [List.pairwise_cons]
        refine ⟨?_, ih h.2⟩
        intro y hy
        rcases (mem_insertRow _ _ _).mp hy with rfl | hy
        · omega
        · exact h.1 y hy

/-! ## The shared operations -/

/-- Row sets and inbound queue as they were. -/
theorem orderly_of_fields (f g : FrameStore) (h : f.Orderly) (hd : g.dirty = f.dirty) (hc : g.carry = f.carry)
    (hi : g.inbound = f.inbound) : g.Orderly := by
  unfold FrameStore.Orderly FrameStore.RowsAscending at *
  rw [hd, hc, hi]
  exact h

theorem orderly_clean (f : FrameStore) (hd : f.dirty = []) (hc : f.carry = []) (hi : f.inbound = []) : f.Orderly := by
  unfold FrameStore.Orderly FrameStore.RowsAscending
  rw [hd, hc, hi]
  simp

theorem setBank_fields (f : FrameStore) (bank : Bank) (m : Memory) :
    (f.setBank bank m).dirty = f.dirty ∧ (f.setBank bank m).carry = f.carry ∧ (f.setBank bank m).inbound = f.inbound := by
  cases bank <;> exact ⟨rfl, rfl, rfl⟩

@[simp] theorem writeBank_orderly (s : State) (bank : Bank) (row start : Nat) (ps : List Pixel)
    (h : s.fs.Orderly) : (s.writeBank bank row start ps).fs.Orderly := by
  obtain ⟨h1, h2, h3⟩ := setBank_fields s.fs bank (writePixels (s.fs.bank bank) row start ps)
  exact orderly_of_fields _ _ h h1 h2 h3

@[simp] theorem abandonOperation_orderly (s : State) (h : s.fs.Orderly) : s.abandonOperation.fs.Orderly := by
  unfold State.abandonOperation
  split
  · exact h
  · exact orderly_of_fields _ _ (writeBank_orderly s _ _ _ _ h) rfl rfl rfl

theorem dirtied_orderly (f : FrameStore) (o : Operation) (h : f.Orderly) : (f.dirtied o).Orderly := by
  unfold FrameStore.dirtied
  split
  · exact h
  · exact ⟨⟨insertRow_pairwise _ _ h.1.1, h.1.2⟩, h.2⟩

@[simp] theorem beginOperation_orderly (s : State) (q : Requester) (h : s.fs.Orderly) :
    (s.beginOperation q).fs.Orderly := by
  unfold State.beginOperation
  dsimp only
  split
  · exact h
  · simp only [State.setFs_fs]
    split
    · exact orderly_of_fields _ _ h rfl rfl rfl
    · exact dirtied_orderly _ _ (orderly_of_fields _ _ h rfl rfl rfl)

@[simp] theorem teardown_orderly (s : State) (st : StationState) (c : Cause) (h : s.fs.Orderly) :
    (s.teardown st c).fs.Orderly := by
  have := abandonOperation_orderly s h
  simp only [State.teardown, State.setHanded_fs, State.setLp_fs, State.setWe_fs, State.setFs_fs, State.setCu_fs,
    State.setTu_fs, State.setLc_fs, State.setMu_fs, State.setLock_frame]
  exact ⟨⟨this.1.1, List.Pairwise.nil⟩, Nat.zero_le _⟩

@[simp] theorem enterConflict_orderly (s : State) (b : Bool) (h : s.fs.Orderly) :
    (s.enterConflict b).fs.Orderly := by
  simp [State.enterConflict, h]

@[simp] theorem evict_orderly (s : State) (b : Bool) (h : s.fs.Orderly) : (s.evict b).fs.Orderly := by
  simp [State.evict, h]

@[simp] theorem detach_orderly (s : State) (h : s.fs.Orderly) : s.detach.fs.Orderly := by
  simp [State.detach, h]

@[simp] theorem enterListen_orderly (s : State) : s.enterListen.fs.Orderly :=
  orderly_clean _ rfl rfl rfl

@[simp] theorem takeFlip_orderly (s : State) (r : Record) (l : LastCommit) (h : s.fs.Orderly) :
    (s.takeFlip r l).fs.Orderly := by
  simp only [State.takeFlip, State.reportLateness_frame, State.reportFlip_frame, State.passFlip_frame, State.swapBanks,
    State.setFs_fs]
  refine ⟨⟨List.Pairwise.nil, ?_⟩, h.2⟩
  show s.carryRows.Pairwise (· < ·)
  unfold State.carryRows
  split
  · exact h.1.1
  · exact List.pairwise_lt_range

@[simp] theorem flipBody_orderly (s : State) (h : s.fs.Orderly) : s.flipBody.fs.Orderly := by
  unfold State.flipBody
  dsimp only
  (repeat' split) <;> first | exact h | simp [h]

@[simp] theorem bankClearEndBody_orderly (s : State) (h : s.fs.Orderly) : s.bankClearEndBody.fs.Orderly := by
  unfold State.bankClearEndBody
  split
  · exact orderly_of_fields _ _ h rfl rfl rfl
  · exact h

@[simp] theorem grantBody_orderly (s : State) (h : s.fs.Orderly) : s.grantBody.fs.Orderly := by
  unfold State.grantBody
  split <;> simp [h]

@[simp] theorem settle_orderly (s : State) (h : s.fs.Orderly) : (settle s).fs.Orderly := by
  unfold settle
  dsimp only
  simp only [closeEvent_frame]
  refine grantBody_orderly _ ?_
  simp only [closeEvent_frame, State.readyQueuedBody_frame, State.waitingSpanBody_frame, State.joiningPassageBody_frame]
  refine bankClearEndBody_orderly _ ?_
  simp only [closeEvent_frame, State.readyWaitBody_frame, State.beaconLossBody_frame, State.lockLossBody_frame,
    State.flipPassedBody_frame]
  exact flipBody_orderly _ h

/-! ## The parts of the commands -/

@[simp] theorem clearRow_orderly (s : State) (k : BankClear) (h : s.fs.Orderly) : (s.clearRow k).fs.Orderly :=
  orderly_of_fields _ _ h rfl rfl rfl

@[simp] theorem bankClearRowBody_orderly (s : State) (h : s.fs.Orderly) : s.bankClearRowBody.fs.Orderly := by
  unfold State.bankClearRowBody
  split <;> simp [h]

@[simp] theorem carried_orderly (s : State) (row : Nat) (h : s.fs.Orderly) : (s.carried row).fs.Orderly :=
  ⟨⟨h.1.1, h.1.2.sublist List.erase_sublist⟩, h.2⟩

@[simp] theorem inboundTold_orderly (s : State) (h : s.fs.Orderly) : s.inboundTold.fs.Orderly := by
  unfold State.inboundTold
  have hl := h.2
  split
  · exact h
  · rename_i q rest hq
    rw [hq] at hl
    split
    · exact ⟨h.1, (by simpa using Nat.le_of_succ_le hl)⟩
    · exact ⟨h.1, by simpa using hl⟩

@[simp] theorem tell_orderly (s : State) (o : Operation) (h : s.fs.Orderly) : (s.tell o).fs.Orderly := by
  unfold State.tell
  split <;> simp [h]

@[simp] theorem landOperation_orderly (s : State) (o : Operation) (h : s.fs.Orderly) :
    (s.landOperation o).fs.Orderly := by
  simp [State.landOperation, h]

@[simp] theorem beginWrite_orderly (s : State) (o : Operation) (h : s.fs.Orderly) :
    (s.beginWrite o).fs.Orderly := by
  unfold State.beginWrite
  dsimp only
  simp only [State.setFs_fs]
  exact dirtied_orderly _ _ (orderly_of_fields _ _ (carried_orderly s o.row h) rfl rfl rfl)

@[simp] theorem operationEndBody_orderly (s : State) (v : Bool) (h : s.fs.Orderly) :
    (s.operationEndBody v).fs.Orderly := by
  unfold State.operationEndBody
  dsimp only
  split
  · exact h
  · rename_i o _
    have hl : ((s.latchSlots v).landOperation o).fs.Orderly := by simp [h]
    split
    · simp [hl]
    · refine tell_orderly _ _ ?_
      exact orderly_of_fields _ _ hl rfl rfl rfl

@[simp] theorem applyJoin_orderly (s : State) (x : Station) (b : JoinBody) (h : s.fs.Orderly) :
    (s.applyJoin x b).fs.Orderly := by
  unfold State.applyJoin
  (repeat' split) <;> simp [h]

@[simp] theorem settleJoin_orderly (s : State) (h : s.fs.Orderly) : s.settleJoin.fs.Orderly := by
  unfold State.settleJoin
  split <;> simp [h]

@[simp] theorem applyDrop_orderly (s : State) (b : DropBody) (h : s.fs.Orderly) :
    (s.applyDrop b).fs.Orderly := by
  unfold State.applyDrop
  dsimp only
  (repeat' split) <;> simp [h]

theorem keptEntries_length (f : FrameStore) (b : Epoch) : (f.keptEntries b).length ≤ f.inbound.length := by
  unfold FrameStore.keptEntries
  split
  · simp
  · rename_i h rest hq
    rw [hq]
    have := List.length_filter_le (fun e : InEntry => e.keptAt b) rest
    simp only [List.length_append, List.length_cons]
    split
    · simp only [List.length_singleton]; omega
    · split <;> simp only [List.length_singleton, List.length_nil] <;> omega

@[simp] theorem adoptInbound_orderly (s : State) (old : Option Epoch) (h : s.fs.Orderly) :
    (s.adoptInbound old).fs.Orderly := by
  unfold State.adoptInbound
  (repeat' split)
  · exact h
  · exact h
  · simp only [State.countStale_frame, State.setFs_fs]
    exact ⟨h.1, (keptEntries_length _ _).trans h.2⟩

@[simp] theorem adopt_orderly (s : State) (x : Station) (b : BeaconBody) (h : s.fs.Orderly) :
    (s.adopt x b).fs.Orderly := by
  simp [State.adopt, h]

@[simp] theorem applyBeacon_orderly (s : State) (x : Station) (b : BeaconBody) (h : s.fs.Orderly) :
    (s.applyBeacon x b).fs.Orderly := by
  unfold State.applyBeacon
  (repeat' split) <;> simp [h]

@[simp] theorem placeEntry_orderly (s : State) (x : Station) (b : PaintBody) (h : s.fs.Orderly) :
    (s.placeEntry x b).fs.Orderly := by
  unfold State.placeEntry
  (repeat' split)
  · simp [h]
  · rename_i hc
    have : Config.inboundCapacity = 16 := rfl
    refine ⟨h.1, ?_⟩
    simp only [State.setFs_fs, List.length_append, List.length_singleton]
    omega
  · simp [h]

@[simp] theorem deliver_orderly (s : State) (x : Station) (took : Bool) (b : Body) (h : s.fs.Orderly) :
    (s.deliver x took b).fs.Orderly := by
  unfold State.deliver
  (repeat' split) <;> simp [h]

@[simp] theorem hear_orderly (s : State) (k : FrameKind) (e : FrameEnd) (v : SlotView) (h : s.fs.Orderly) :
    (s.hear k e v).fs.Orderly := by
  unfold State.hear State.joiningConflict
  dsimp only
  (repeat' split) <;> simp [h]

@[simp] theorem receive_orderly (s : State) (k : FrameKind) (e : FrameEnd) (v : SlotView) (h : s.fs.Orderly) :
    (s.receive k e v).fs.Orderly := by
  unfold State.receive
  (repeat' split) <;> simp [h]

@[simp] theorem ownFrame_orderly (s : State) (a : Attempt) (e : FrameEnd) (h : s.fs.Orderly) :
    (s.ownFrame a e).fs.Orderly := by
  unfold State.ownFrame State.ownBeacon State.ownDrop State.ownLeave State.ownJoin
  dsimp only
  (repeat' split) <;> simp [h]

@[simp] theorem endFrame_orderly (s : State) (k : FrameKind) (e : FrameEnd) (h : s.fs.Orderly) :
    (s.endFrame k e).fs.Orderly := by
  unfold State.endFrame
  dsimp only
  (repeat' split) <;> simp [h]

@[simp] theorem load_orderly (s : State) (c : Configuration) : (s.load c).fs.Orderly := by
  simp [State.load]

@[simp] theorem conclude_orderly (s : State) (v : Except FaultReason Configuration) (h : s.fs.Orderly) :
    (s.conclude v).fs.Orderly := by
  unfold State.conclude
  split <;> simp [h]

@[simp] theorem eepromByteBody_orderly (s : State) (v : Byte) (h : s.fs.Orderly) :
    (s.eepromByteBody v).fs.Orderly := by
  unfold State.eepromByteBody
  dsimp only
  (repeat' split) <;> simp [h]

@[simp] theorem hardReset_orderly (s : State) (low : Bool) :
    (s.hardReset low).fs.Orderly :=
  orderly_clean _ rfl rfl rfl

@[simp] theorem softResetBody_orderly (s : State) : s.softResetBody.fs.Orderly := by
  unfold State.softResetBody State.afterSoftReset
  dsimp only
  split <;> exact orderly_clean _ rfl rfl rfl

@[simp] theorem judgeJoin_orderly (s : State) (h : s.fs.Orderly) : s.judgeJoin.1.fs.Orderly := by
  unfold State.judgeJoin
  split <;> simp [h]

@[simp] theorem judgeConfigEnd_orderly (s : State) (l : List Byte) (h : s.fs.Orderly) :
    (s.judgeConfigEnd l).1.fs.Orderly := by
  unfold State.judgeConfigEnd
  (repeat' split) <;> simp [h]

/-- An event keeps the order when its body does. -/
theorem event_orderly (dt : Nat) (body : State → State) (hb : ∀ s : State, s.fs.Orderly → (body s).fs.Orderly)
    (s t : State) (h : s.fs.Orderly) (he : event dt body s = .next t) : t.fs.Orderly := by
  injection he with he
  subst he
  simp only [closeEvent_frame]
  exact hb _ (by simp [h])

/-- So does a row that follows inside an event. -/
theorem followOn_orderly (body : State → State) (hb : ∀ s : State, s.fs.Orderly → (body s).fs.Orderly)
    (s t : State) (h : s.fs.Orderly) (he : followOn body s = .next t) : t.fs.Orderly := by
  injection he with he
  subst he
  simp only [closeEvent_frame]
  exact hb _ h

@[simp] theorem frameCutShortBody_orderly (b : Bool) (s : State) (h : s.fs.Orderly) :
    (s.frameCutShortBody b).fs.Orderly := by
  unfold State.frameCutShortBody
  dsimp only
  (repeat' split) <;> simp [h]

/-- Every command's own part keeps the order. -/
theorem effectOf_orderly (c : Instr) (s : State) (h : s.fs.Orderly) : (effectOf c s).fs.Orderly := by
  have hj : ∀ (judge : State → Judged) (t : Tail) (n : Nat), (∀ u : State, u.fs.Orderly → (judge u).1.fs.Orderly) →
      (s.judged (fun s => exactLength t n s judge)).fs.Orderly := by
    intro judge t n hk
    refine judged_keeps (fun u => u.fs.Orderly) _ (fun u _ _ hu => by simpa using hu) (fun u _ hu => by simpa using hu) ?_ s h
    intro u hu
    unfold exactLength
    split
    · exact hk u hu
    · exact hu
  cases c <;> dsimp only [effectOf]
  case powerOn => simp [State.powerOnBody]
  case resetPinAssert => unfold State.resetAssertBody; split <;> simp [h]
  case softReset => exact hj _ _ _ (fun u hu => by simp [State.judgeSoftReset])
  case nop => exact hj _ _ _ (fun u hu => hu)
  case setWindow => exact hj _ _ _ (fun u hu => by simpa using hu)
  case fill => exact hj _ _ _ (fun u hu => by simpa using hu)
  case present => exact hj _ _ _ (fun u hu => by simpa using hu)
  case leave => exact hj _ _ _ (fun u hu => by simpa using hu)
  case join => exact hj _ _ _ (fun u hu => by simp [hu])
  case configEnd => exact hj _ _ _ (fun u hu => by simp [hu])
  case configRecord =>
    refine judged_keeps (fun u => u.fs.Orderly) _ (fun u _ _ hu => by simpa using hu) (fun u _ hu => by simpa using hu) ?_ s h
    intro u hu
    split
    · simpa using hu
    · exact hu
  case unknown =>
    exact judged_keeps (fun u => u.fs.Orderly) _ (fun u _ _ hu => by simpa using hu) (fun u _ hu => by simpa using hu) (fun u hu => hu) s h
  all_goals simp [h]

end Sys2Proof.Machine
end

