-- ==== Sys2Proof/Laws/Standing.lean ====
section
/-! SUPPORT. Station state, member table, record and configuration agree: kept by every operation that touches them. -/

namespace Sys2Proof.Machine

/-! ## The own frame in flight is left alone -/

@[simp] theorem setSlots_flight (s : State) (v : Slots) : (s.setSlots v).lc.flight = s.lc.flight := (rfl)

@[simp] theorem requestDrop_flight (s : State) (m : StationSet) : (s.requestDrop m).lc.flight = s.lc.flight := by
  unfold State.requestDrop
  split <;> simp

@[simp] theorem dropLoses_flight (s : State) (m : StationSet) : (s.dropLoses m).lc.flight = s.lc.flight := by
  unfold State.dropLoses
  (repeat' split) <;> simp

@[simp] theorem freshAddressee_flight (s : State) (x : Station) : (s.freshAddressee x).lc.flight = s.lc.flight := (rfl)

@[simp] theorem offerRun_flight (s : State) (r : Run) : (s.offerRun r).lc.flight = s.lc.flight := by
  unfold State.offerRun
  (repeat' split) <;> simp

@[simp] theorem closeOpenRun_flight (s : State) : s.closeOpenRun.lc.flight = s.lc.flight := by
  unfold State.closeOpenRun
  (repeat' split) <;> simp

@[simp] theorem commit_flight (s : State) (r : Record) (k : Completing) : (s.commit r k).lc.flight = s.lc.flight := (rfl)

@[simp] theorem completionCheck_flight (s : State) (k : Completing) :
    (s.completionCheck k).lc.flight = s.lc.flight := by
  unfold State.completionCheck
  (repeat' split) <;> simp

@[simp] theorem withoutEntries_flight (s : State) (x : Station) : (s.withoutEntries x).lc.flight = s.lc.flight := by
  simp [State.withoutEntries]

@[simp] theorem discardFor_flight (s : State) (x : Station) : (s.discardFor x).lc.flight = s.lc.flight := by
  simp [State.discardFor]

@[simp] theorem handOnRemovals_flight (s : State) (m : StationSet) : (s.handOnRemovals m).lc.flight = s.lc.flight := by
  have h : ∀ (l : List Station) (s : State), (l.foldl State.discardFor s).lc.flight = s.lc.flight := by
    intro l
    induction l with
    | nil => intro s; rfl
    | cons x l ih => intro s; simpa using ih (s.discardFor x)
  simpa [State.handOnRemovals] using h (stationsOf m) (s.dropLoses m)

@[simp] theorem rankRetest_flight (s : State) : s.rankRetest.lc.flight = s.lc.flight := by
  unfold State.rankRetest
  split <;> simp

@[simp] theorem latchSlots_flight (s : State) (v : Bool) : (s.latchSlots v).lc.flight = s.lc.flight := by
  unfold State.latchSlots
  split <;> simp

/-! ## Sets -/

theorem subsetOf_iff (m n : StationSet) : subsetOf m n = true ↔ ∀ x : Station, hasStation m x = true → hasStation n x = true := by
  unfold subsetOf setMinus hasStation
  rw [beq_iff_eq]
  constructor
  · intro h x hx
    have := congrArg (fun v => v.getLsbD x.val) h
    simp [hx] at this
    exact this
  · intro h
    apply BitVec.eq_of_getLsbD_eq
    intro i hi
    have := h ⟨i, hi⟩
    simp only [BitVec.getLsbD_and, BitVec.getLsbD_not, BitVec.getLsbD_zero]
    revert this
    cases m.getLsbD i <;> cases hn : n.getLsbD i <;> simp_all

@[simp] theorem hasStation_setMinus (m n : StationSet) (x : Station) :
    hasStation (setMinus m n) x = (hasStation m x && !hasStation n x) := by
  unfold hasStation setMinus
  have := x.isLt
  simp [this]

@[simp] theorem hasStation_oneStation (x y : Station) : hasStation (oneStation x) y = decide (x = y) := by
  revert x y
  decide

@[simp] theorem hasStation_withStation (m : StationSet) (x y : Station) :
    hasStation (withStation m x) y = (hasStation m y || decide (x = y)) := by
  unfold withStation
  have h := hasStation_oneStation x y
  unfold hasStation at *
  rw [BitVec.getLsbD_or, h]

@[simp] theorem hasStation_and (m n : StationSet) (x : Station) :
    hasStation (m &&& n) x = (hasStation m x && hasStation n x) := by
  unfold hasStation
  simp

@[simp] theorem hasStation_zero (x : Station) : hasStation 0#16 x = false := by
  unfold hasStation
  simp

/-! ## The station's standing -/

/-- The standing looks at the configuration, the Membership and Commit Units, the loader, the flight and the flip due. -/
theorem standing_of_view (s t : State) (h : s.Standing) (hc : t.config = s.config) (hm : t.mu = s.mu) (hl : t.sl = s.sl)
    (hu : t.cu = s.cu) (hf : t.lc.flight = s.lc.flight) (hh : t.handed = s.handed) : t.Standing := by
  have hself : t.self = s.self := by unfold State.self; rw [hc]
  obtain ⟨h1, h2, h3, h4, h5, h6, h7, h8, h9, h10⟩ := h
  constructor
  · rw [hc, hm]; exact h1
  · rw [hc, hl]; exact h2
  · rw [hl]; exact h3
  · rw [hu, hm]; exact h4
  · rw [hm]; exact h5
  · rw [hu, hm]; exact h6
  · rw [hm, hself]; exact h7
  · rw [hu, hm]; exact h8
  · rw [hf, hm]; exact h9
  · rw [hh, hm]; exact h10

/-- A map is held in every state but LOADING, AWAIT_CONFIG and FAULT. -/
theorem map_held (s : State) (h : s.Standing) (hs : s.mu.state.mapless = false) : s.config.isSome = true := by
  rw [h.map, hs]; rfl

theorem standing_teardown (s : State) (st : StationState) (c : Cause) (h : s.Standing)
    (hm : s.config.isSome = true) (hst : st = .evicted ∨ st = .detached ∨ st = .conflict) : (s.teardown st c).Standing := by
  have hl := h.loader hm
  have hlow := h.low
  have hmap : st.mapless = false := by rcases hst with rfl | rfl | rfl <;> rfl
  have hne : st ≠ .member := by rcases hst with rfl | rfl | rfl <;> simp
  have hlow' : s.sl.resetLow = false := by
    rw [hl] at hlow
    simpa using hlow
  constructor <;> simp [State.teardown, State.self, Link.emptied, Commit.reset, Handed.clear, hm, hl, hlow', hmap, hne]

theorem standing_enterListen (s : State) (hm : s.config.isSome = true) (hl : s.sl.loader = .off)
    (hlow : s.sl.resetLow = true → s.sl.loader = .held) : s.enterListen.Standing := by
  constructor <;>
    simp [State.enterListen, State.self, Link.emptied, Commit.reset, Handed.clear, Membership.reset, hm, hl,
      StationState.mapless]
  rw [hl] at hlow
  simpa using hlow

theorem standing_raise (s : State) (e : EventRecord) (h : s.Standing) : (s.raise e).Standing :=
  standing_of_view s _ h (by simp) (by simp) (by simp) (by simp) (by simp) (by simp)

theorem standing_found (s : State) (h : s.Standing) (hs : s.mu.state.mapless = false) : s.found.Standing := by
  have hm := map_held s h hs
  constructor <;>
    simp [State.found, State.self, hm, h.loader hm, StationState.mapless, StationState.hears, StationState.learning]
  · have := h.low
    rw [h.loader hm] at this
    simpa using this
  · constructor <;> (rw [subsetOf_iff]; simp)

theorem standing_refound (s : State) (h : s.Standing) : s.refound.Standing := by
  unfold State.refound
  split
  · rename_i hd
    unfold State.refoundDue at hd
    simp only [Bool.and_eq_true, decide_eq_true_eq] at hd
    refine standing_of_view s.found _ (standing_found s h ?_) (by simp) (by simp) (by simp) (by simp) (by simp) (by simp)
    rw [hd.1.1]; rfl
  · exact h

theorem standing_closeEvent (s : State) (h : s.Standing) : (closeEvent s).Standing :=
  standing_of_view s.refound _ (standing_refound s h) (by simp [closeEvent]) (by simp [closeEvent])
    (by simp [closeEvent]) (by simp [closeEvent]) (by simp [closeEvent]) (by simp [closeEvent])

theorem standing_commit (s : State) (r : Record) (k : Completing) (h : s.Standing) (hr : s.cu.record = some r) :
    (s.commit r k).Standing := by
  have h4 := h.record
  rw [hr] at h4
  constructor
  · simpa using h.map
  · simpa using h.loader
  · simpa using h.low
  · simp [State.commit, ← h4]
  · simpa using h.synced
  · simp [State.commit, ← h.phase]
    cases s.cu.phase <;> simp [Phase.atCommit] <;> split <;> simp
  · simpa [State.self] using h.self
  · intro q hq
    simp [State.commit] at hq
    subst hq
    simp [State.commit]
    constructor <;> (rw [subsetOf_iff]; simp)
  · simpa using h.flight
  · simpa using h.flip

theorem standing_completionCheck (s : State) (k : Completing) (h : s.Standing) : (s.completionCheck k).Standing := by
  unfold State.completionCheck
  (repeat' split)
  · exact h
  · rename_i r hr _
    exact standing_commit s r k h hr
  · exact h

/-- A record that loses stations stays nested. -/
theorem nested_minus (r : Record) (m n : StationSet) (h : r.Nested m) :
    ({ r with required := setMinus r.required n, ready := setMinus r.ready n } : Record).Nested (setMinus m n) := by
  obtain ⟨h1, h2⟩ := h
  rw [subsetOf_iff] at h1 h2
  constructor
  · rw [subsetOf_iff]
    intro x hx
    simp only [hasStation_setMinus, Bool.and_eq_true] at hx ⊢
    exact ⟨h1 x hx.1, hx.2⟩
  · rw [subsetOf_iff]
    intro x hx
    simp only [hasStation_setMinus, Bool.and_eq_true] at hx ⊢
    exact ⟨h2 x hx.1, hx.2⟩

/-- A smaller member table keeps a nested record nested where the record loses the same stations. -/
theorem nested_mono (r : Record) (m n : StationSet) (h : r.Nested m) (hs : ∀ x, hasStation m x = true → hasStation n x = true) :
    r.Nested n := by
  refine ⟨h.1, ?_⟩
  have h2 := h.2
  rw [subsetOf_iff] at h2 ⊢
  exact fun x hx => hs x (h2 x hx)

/-- Stations leave the table and the record together, self not among them where the station is a MEMBER. -/
theorem standing_lose_both (s : State) (m : StationSet) (h : s.Standing)
    (hself : s.mu.state = .member → hasStation m s.self = false) :
    ((s.setMembers (setMinus s.mu.members m)).recordLoses m).Standing := by
  have hrec : ((s.setMembers (setMinus s.mu.members m)).recordLoses m).cu.record.isSome = s.cu.record.isSome := by
    unfold State.recordLoses State.setMembers
    simp only [State.setMu_cu]
    cases hr : s.cu.record <;> simp [State.setRecord, hr]
  have hph : ((s.setMembers (setMinus s.mu.members m)).recordLoses m).cu.phase = s.cu.phase := by
    unfold State.recordLoses State.setMembers
    simp only [State.setMu_cu]
    cases hr : s.cu.record <;> simp [State.setRecord]
  constructor
  · simpa [State.setMembers] using h.map
  · simpa [State.setMembers] using h.loader
  · simpa [State.setMembers] using h.low
  · rw [hrec]; simpa [State.setMembers] using h.record
  · simpa [State.setMembers] using h.synced
  · rw [hph]; simpa [State.setMembers] using h.phase
  · intro hm
    have hm' : s.mu.state = .member := by simpa [State.setMembers] using hm
    have e : ((s.setMembers (setMinus s.mu.members m)).recordLoses m).self = s.self := by simp [State.self]
    rw [e]
    simp [State.setMembers, h.self hm', hself hm']
  · intro q hq
    have e : ((s.setMembers (setMinus s.mu.members m)).recordLoses m).mu.members = setMinus s.mu.members m := by
      simp [State.setMembers]
    rw [e]
    unfold State.recordLoses State.setMembers at hq
    simp only [State.setMu_cu] at hq
    cases hr : s.cu.record with
    | none => simp [hr] at hq
    | some r =>
      simp [hr, State.setRecord] at hq
      subst hq
      exact nested_minus r _ _ (h.nested r hr)
  · simpa [State.setMembers] using h.flight
  · simpa [State.setMembers] using h.flip

/-- Stations leave the record alone. -/
theorem standing_recordLoses (s : State) (m : StationSet) (h : s.Standing) : (s.recordLoses m).Standing := by
  unfold State.recordLoses
  cases hr : s.cu.record with
  | none => exact h
  | some r =>
    have hn := h.nested r hr
    have h4 := h.record
    rw [hr] at h4
    constructor
    · simpa using h.map
    · simpa using h.loader
    · simpa using h.low
    · simp [State.setRecord, ← h4]
    · simpa using h.synced
    · simpa [State.setRecord] using h.phase
    · simpa [State.self] using h.self
    · intro q hq
      simp [State.setRecord] at hq
      subst hq
      simp only [State.setRecord_frame]
      refine nested_mono _ _ _ (nested_minus r _ m hn) ?_
      intro x hx
      simp only [hasStation_setMinus, Bool.and_eq_true] at hx
      exact hx.1
    · simpa [State.setRecord] using h.flight
    · simpa using h.flip

/-- Stations join the table. -/
theorem standing_members_grow (s : State) (m : Membership) (h : s.Standing) (hst : m.state = s.mu.state)
    (hsy : m.synced = s.mu.synced) (hs : ∀ x, hasStation s.mu.members x = true → hasStation m.members x = true) :
    (s.setMu m).Standing := by
  constructor
  · simpa [hst] using h.map
  · simpa using h.loader
  · simpa using h.low
  · simpa [hsy] using h.record
  · simpa [hst, hsy] using h.synced
  · simpa [hst, hsy] using h.phase
  · intro hm
    have e : (s.setMu m).self = s.self := rfl
    rw [e]
    simp only [State.setMu_mu] at hm ⊢
    exact hs _ (h.self (by rw [← hst]; exact hm))
  · intro r hr
    exact nested_mono r _ _ (h.nested r (by simpa using hr)) (by simpa using hs)
  · simpa [hst] using h.flight
  · simpa [hst, hsy] using h.flip

theorem standing_rejoin (s : State) (x : Station) (k : Completing) (h : s.Standing) : (s.rejoin x k).Standing :=
  standing_completionCheck _ _ (standing_recordLoses _ _ h)

theorem standing_learnJoin (s : State) (x : Station) (k : Completing) (h : s.Standing) : (s.learnJoin x k).Standing := by
  unfold State.learnJoin
  dsimp only
  have h' := standing_members_grow s { s.mu with members := withStation s.mu.members x, memberRecorded := true } h rfl rfl
    (by intro y hy; simp [hy])
  split
  · exact standing_rejoin _ _ _ h'
  · exact h'

theorem standing_rankRetest (s : State) (h : s.Standing) : s.rankRetest.Standing :=
  standing_of_view s _ h (by simp) (by simp) (by simp) (by simp) (by simp) (by simp)

theorem standing_admitMember (s : State) (x : Station) (k : Completing) (h : s.Standing) :
    (s.admitMember x k).Standing := by
  unfold State.admitMember
  dsimp only
  split
  · exact standing_rejoin _ _ _ (standing_raise _ _ h)
  · refine standing_rankRetest _ (standing_raise _ _ ?_)
    exact standing_members_grow s _ h rfl rfl (by intro y hy; simp [hy])

theorem standing_enterConflict (s : State) (b : Bool) (h : s.Standing) (hm : s.config.isSome = true) :
    (s.enterConflict b).Standing :=
  standing_raise _ _ (standing_teardown s _ _ h hm (by simp))

theorem standing_evict (s : State) (b : Bool) (h : s.Standing) (hm : s.config.isSome = true) : (s.evict b).Standing :=
  standing_raise _ _ (standing_teardown s _ _ h hm (by simp))

theorem standing_detach (s : State) (h : s.Standing) (hm : s.config.isSome = true) : s.detach.Standing :=
  standing_raise _ _ (standing_teardown s _ _ h hm (by simp))

theorem standing_applyJoin (s : State) (x : Station) (b : JoinBody) (h : s.Standing) (hm : s.config.isSome = true) :
    (s.applyJoin x b).Standing := by
  unfold State.applyJoin
  (repeat' split)
  · exact standing_admitMember _ _ _ h
  · exact standing_learnJoin _ _ _ h
  · exact h
  · exact standing_enterConflict _ _ h hm

theorem standing_becomeMember (s : State) (k : Completing) (h : s.Standing) (hm : s.config.isSome = true) :
    (s.becomeMember k).Standing := by
  unfold State.becomeMember
  dsimp only
  have hbase : ((s.setMu { s.mu with state := .member, members := withStation s.mu.members s.self }).setCu
      { s.cu with phase := if s.mu.synced then .idle else .absent }).Standing := by
    constructor
    · simp [hm, StationState.mapless]
    · simpa using h.loader
    · simpa using h.low
    · simpa using h.record
    · simp [StationState.hears]
    · cases hs : s.mu.synced <;> simp [hs]
    · simp [State.self]
    · intro r hr
      refine nested_mono r _ _ (h.nested r (by simpa using hr)) ?_
      intro x hx
      simp [hx]
    · simp
    · intro hf
      simpa using (h.flip (by simpa using hf)).2
  simp only [State.setMu_mu, State.setMu_cu]
  split
  · exact standing_rejoin _ _ _ (standing_raise _ _ hbase)
  · exact standing_rankRetest _ (standing_raise _ _ hbase)

theorem standing_foundWall (s : State) (h : s.Standing) (hs : s.mu.state.mapless = false) : s.foundWall.Standing :=
  standing_raise _ _ (standing_found s h hs)

theorem standing_lose (s : State) (m : StationSet) (h : s.Standing) (hself : hasStation m s.self = false) :
    (s.lose m).Standing := by
  unfold State.lose
  split
  · exact h
  · refine standing_rankRetest _ ?_
    have hb := standing_lose_both s m h (fun _ => hself)
    refine standing_of_view _ _ hb ?_ ?_ ?_ ?_ ?_ ?_
    · simp
    · simp
    · simp
    · unfold State.recordLoses
      simp only [State.handOnRemovals_frame]
      cases (s.setMembers (setMinus s.mu.members m)).cu.record <;> simp [State.setRecord]
    · simp
    · simp

theorem standing_applyLeave (s : State) (x : Station) (k : Completing) (h : s.Standing) (hx : x ≠ s.self) :
    (s.applyLeave x k).Standing := by
  unfold State.applyLeave
  have hself : hasStation (oneStation x) s.self = false := by simp [hx]
  (repeat' split)
  · exact h
  · exact standing_completionCheck _ _ (standing_raise _ _ (standing_lose s _ h hself))
  · exact standing_completionCheck _ _ (standing_lose_both s _ h (fun _ => hself))

theorem standing_applyDrop (s : State) (b : DropBody) (h : s.Standing) : (s.applyDrop b).Standing := by
  unfold State.applyDrop
  dsimp only
  (repeat' split)
  · rename_i hm _
    exact standing_evict _ _ h (map_held s h (by rw [hm]; rfl))
  · rename_i hm hs
    refine standing_completionCheck _ _ ?_
    unfold State.reportDropped
    have hl := standing_lose s (b.stations &&& s.mu.members) h (by simp_all)
    split
    · exact hl
    · exact standing_raise _ _ hl
  · rename_i hm
    exact standing_completionCheck _ _ (standing_lose_both s _ h (fun h' => absurd h' hm))

theorem standing_ownReadyApplied (s : State) (x : Station) (h : s.Standing) : (s.ownReadyApplied x).Standing := by
  unfold State.ownReadyApplied
  split
  · rename_i hp
    have hph := h.phase
    constructor
    · simpa using h.map
    · simpa using h.loader
    · simpa using h.low
    · simpa using h.record
    · simpa using h.synced
    · rw [hp.2] at hph
      simpa using hph
    · simpa [State.self] using h.self
    · intro q hq
      exact h.nested q (by simpa using hq)
    · simpa using h.flight
    · simpa using h.flip
  · exact h

theorem standing_ready (s : State) (x : Station) (b : ReadyBody) (h : s.Standing) : (s.applyReady x b).Standing := by
  unfold State.applyReady
  (repeat' split)
  · exact h
  · rename_i r hr hc hy
    refine standing_completionCheck _ _ (standing_ownReadyApplied _ _ ?_)
    have hn := h.nested r hr
    have h4 := h.record
    rw [hr] at h4
    have h1 : (s.setRecord { r with ready := withStation r.ready x }).Standing := by
      constructor
      · simpa using h.map
      · simpa using h.loader
      · simpa using h.low
      · simp [State.setRecord, ← h4]
      · simpa using h.synced
      · simpa [State.setRecord] using h.phase
      · simpa [State.self] using h.self
      · intro q hq
        simp [State.setRecord] at hq
        subst hq
        refine ⟨?_, hn.2⟩
        have hn1 := hn.1
        rw [subsetOf_iff] at hn1 ⊢
        intro y hy
        simp only [hasStation_withStation, Bool.or_eq_true, decide_eq_true_eq] at hy
        rcases hy with hy | rfl
        · exact hn1 y hy
        · exact hc.2
      · simpa using h.flight
      · simpa using h.flip
    exact standing_of_view _ _ h1 (by simp) (by simp) (by simp) (by simp) (by simp) (by simp)
  · exact standing_completionCheck _ _ (standing_ownReadyApplied _ _ h)
  · exact h
  · exact h

/-! ## Adoption -/

@[simp] theorem adoptTiming_flight (s : State) (x : Station) (b : BeaconBody) :
    (s.adoptTiming x b).lc.flight = s.lc.flight := by
  unfold State.adoptTiming State.withdrawBeacon
  dsimp only
  (repeat' split) <;> simp

@[simp] theorem adoptSlots_flight (s : State) (r : Record) (kept : Bool) :
    (s.adoptSlots r kept).lc.flight = s.lc.flight := by
  unfold State.adoptSlots
  dsimp only
  (repeat' split) <;> simp

@[simp] theorem adoptRecord_flight (s : State) (b : BeaconBody) : (s.adoptRecord b).lc.flight = s.lc.flight := by
  simp [State.adoptRecord]

@[simp] theorem adoptMembers_flight (s : State) (b : BeaconBody) : (s.adoptMembers b).lc.flight = s.lc.flight := by
  unfold State.adoptMembers
  dsimp only
  split <;> simp

/-- A beacon that has passed the format check carries a nested record. -/
theorem readBeacon_nested (x : Station) (bs : List Byte) (b : BeaconBody) (h : readBeacon x bs = some b) :
    subsetOf b.ready b.required = true ∧ subsetOf b.required b.members = true := by
  unfold readBeacon at h
  dsimp only at h
  split at h
  · split at h
    · rename_i hc
      injection h with h
      subst h
      exact ⟨hc.2.2.2.1, hc.2.2.1⟩
    · cases h
  · cases h

theorem adoptMembers_mu (s : State) (b : BeaconBody) :
    (s.adoptMembers b).mu.members = b.members ∧ (s.adoptMembers b).mu.synced = true ∧
      (s.adoptMembers b).mu.state = s.mu.state := by
  unfold State.adoptMembers
  dsimp only
  split <;> simp

theorem adoptedPhase_present (r : Record) (x : Station) (kept : Bool) (was : Phase) :
    adoptedPhase r x kept was ≠ .absent := by
  unfold adoptedPhase
  (repeat' split) <;> simp

theorem standing_adopt (s : State) (x : Station) (b : BeaconBody) (h : s.Standing)
    (hh : s.mu.state.hears = true) (hn : subsetOf b.ready b.required = true ∧ subsetOf b.required b.members = true)
    (hs : s.mu.state = .member → hasStation b.members s.self = true) : (s.adopt x b).Standing := by
  obtain ⟨hm1, hm2, hm3⟩ := adoptMembers_mu (s.adoptTiming x b) b
  have hb : (((s.adoptTiming x b).adoptMembers b).adoptRecord b).Standing := by
    have hmu : (((s.adoptTiming x b).adoptMembers b).adoptRecord b).mu = ((s.adoptTiming x b).adoptMembers b).mu := by simp
    have hst : (((s.adoptTiming x b).adoptMembers b).adoptRecord b).mu.state = s.mu.state := by rw [hmu, hm3]; simp
    have hcfg : (((s.adoptTiming x b).adoptMembers b).adoptRecord b).config = s.config := by simp
    have hself : (((s.adoptTiming x b).adoptMembers b).adoptRecord b).self = s.self := by simp [State.self]
    have hcu : (((s.adoptTiming x b).adoptMembers b).adoptRecord b).cu.record =
        some (adoptedRecord ((s.adoptTiming x b).adoptMembers b).cu.record b) := by
      simp [State.adoptRecord]
    constructor
    · rw [hcfg, hst]; exact h.map
    · simpa using h.loader
    · simpa using h.low
    · rw [hcu, hmu, hm2]; rfl
    · rw [hst]; exact fun _ => hh
    · have hp : (((s.adoptTiming x b).adoptMembers b).adoptRecord b).cu.phase =
          if s.mu.state = .member then
            adoptedPhase (adoptedRecord ((s.adoptTiming x b).adoptMembers b).cu.record b)
              ((s.adoptTiming x b).adoptMembers b).self
              (match ((s.adoptTiming x b).adoptMembers b).cu.record with
                | some r => r.collecting == b.collecting
                | none => false) ((s.adoptTiming x b).adoptMembers b).cu.phase
          else .absent := by
        unfold State.adoptRecord
        dsimp only
        rw [hm3]
        simp only [State.adoptSlots_frame, State.setCu_cu, State.adoptTiming_frame]
        all_goals rfl
      rw [hp, hst, hmu, hm2]
      split
      · rename_i hm
        simp [hm, adoptedPhase_present]
      · rename_i hm
        simp [hm]
    · rw [hst, hmu, hm1, hself]; exact hs
    · intro r hr
      rw [hcu] at hr
      injection hr with hr
      subst hr
      rw [hmu, hm1]
      exact hn
    · rw [hst]; simpa using h.flight
    · intro hf
      have := h.flip (by simpa using hf)
      rw [hst, hmu, hm2]
      exact ⟨this.1, rfl⟩
  exact standing_of_view _ _ hb (by simp [State.adopt]) (by simp [State.adopt]) (by simp [State.adopt])
    (by simp [State.adopt]) (by simp [State.adopt]) (by simp [State.adopt])

theorem standing_reportForeign (s : State) (x : Station) (h : s.Standing) : (s.reportForeign x).Standing := by
  unfold State.reportForeign
  split
  · exact h
  · refine standing_raise _ _ ?_
    exact standing_members_grow s _ h rfl rfl (fun _ hx => hx)

theorem standing_applyBeacon (s : State) (x : Station) (b : BeaconBody) (h : s.Standing)
    (hh : s.mu.state.hears = true) (hn : subsetOf b.ready b.required = true ∧ subsetOf b.required b.members = true) :
    (s.applyBeacon x b).Standing := by
  have hc : s.config.isSome = true := map_held s h (by
    revert hh
    cases s.mu.state <;> simp [StationState.hears, StationState.learning, StationState.mapless])
  unfold State.applyBeacon
  (repeat' split)
  · exact standing_reportForeign _ _ h
  · exact standing_enterConflict _ _ h hc
  · exact standing_evict _ _ h hc
  · rename_i hs
    exact standing_adopt _ _ _ h hh hn (fun _ => by simpa using hs)
  · exact standing_enterConflict _ _ h hc
  · rename_i hm _
    exact standing_adopt _ _ _ h hh hn (fun h' => absurd h' hm)

/-! ## The end of a frame -/

theorem config_held (s : State) (h : s.Standing) (hs : s.mu.state.mapless = false) : s.config.isSome = true :=
  map_held s h hs

/-- What touches neither of the six things the standing looks at keeps it. -/
theorem standing_count (s : State) (c : Counters) (h : s.Standing) : (s.count c).Standing :=
  standing_of_view s _ h (by simp) (by simp) (by simp) (by simp) (by simp) (by simp)

theorem standing_setSlots (s : State) (v : Slots) (h : s.Standing) : (s.setSlots v).Standing :=
  standing_of_view s _ h (by simp) (by simp) (by simp) (by simp) (by simp) (by simp)

/-- The flight ends. -/
theorem standing_land (s : State) (l : Link) (h : s.Standing) (hl : l.flight = none) : (s.setLc l).Standing := by
  obtain ⟨h1, h2, h3, h4, h5, h6, h7, h8, h9, h10⟩ := h
  constructor
  · simpa using h1
  · simpa using h2
  · simpa using h3
  · simpa using h4
  · simpa using h5
  · simpa using h6
  · simpa [State.self] using h7
  · simpa using h8
  · simp [hl]
  · simpa using h10

theorem standing_placeEntry (s : State) (x : Station) (b : PaintBody) (h : s.Standing) : (s.placeEntry x b).Standing := by
  refine standing_of_view s _ h (by simp) (by simp) (by simp) (by simp) ?_ (by simp)
  simp

/-- What a body that passed the format check promises of a beacon. -/
def Body.NestedBeacon : Body → Prop
  | .beacon b => subsetOf b.ready b.required = true ∧ subsetOf b.required b.members = true
  | _ => True

theorem readBody_nested (m : Option TileMap) (k : FrameKind) (x : Station) (bs : List Byte) (b : Body)
    (h : readBody m k x bs = some b) : b.NestedBeacon := by
  unfold readBody at h
  split at h <;> rw [Option.map_eq_some_iff] at h <;> obtain ⟨a, ha, rfl⟩ := h <;> first | trivial | exact readBeacon_nested _ _ _ ha

theorem checkedBody_nested (s : State) (k : FrameKind) (f : WireFrame) (b : Body) (h : s.checkedBody k f = some b) :
    b.NestedBeacon ∧ f.sender ≠ s.self := by
  unfold State.checkedBody at h
  split at h
  · rename_i hc
    exact ⟨readBody_nested _ _ _ _ _ h, hc.2.2.2⟩
  · cases h

theorem hears_held (s : State) (h : s.Standing) (hh : s.mu.state.hears = true) : s.config.isSome = true :=
  map_held s h (by
    revert hh
    cases s.mu.state <;> simp [StationState.hears, StationState.learning, StationState.mapless])

theorem standing_deliver (s : State) (x : Station) (took : Bool) (b : Body) (h : s.Standing)
    (hh : s.mu.state.hears = true) (hb : b.NestedBeacon) (hx : x ≠ s.self) : (s.deliver x took b).Standing := by
  have hc := hears_held s h hh
  unfold State.deliver
  (repeat' split)
  · exact standing_applyBeacon _ _ _ h hh hb
  · exact standing_applyJoin _ _ _ h hc
  · exact standing_applyLeave _ _ _ h hx
  · exact standing_ready _ _ _ h
  · exact standing_applyDrop _ _ h
  · exact standing_placeEntry _ _ _ h
  · exact h

theorem standing_joiningConflict (s : State) (b : Bool) (h : s.Standing) (hc : s.config.isSome = true) :
    (s.joiningConflict b).Standing := by
  unfold State.joiningConflict
  split
  · exact standing_enterConflict _ _ h hc
  · exact h

theorem standing_hear (s : State) (k : FrameKind) (e : FrameEnd) (v : SlotView) (h : s.Standing)
    (hh : s.mu.state.hears = true) : (s.hear k e v).Standing := by
  have hc := hears_held s h hh
  unfold State.hear
  dsimp only
  split
  · exact standing_count _ _ h
  · split
    · exact standing_joiningConflict _ _ (standing_count _ _ h) (by simpa using hc)
    · rename_i body hb
      have hb' : s.checkedBody k e.frame = some body := by
        split at hb
        · cases hb
        · exact hb
      obtain ⟨hn, hx⟩ := checkedBody_nested _ _ _ _ hb'
      split
      · exact standing_count _ _ h
      · split
        · exact standing_deliver _ _ _ _ h hh hn hx
        · exact h

theorem standing_receive (s : State) (k : FrameKind) (e : FrameEnd) (v : SlotView) (h : s.Standing) :
    (s.receive k e v).Standing := by
  unfold State.receive State.observe
  split
  · rename_i hh
    exact standing_hear _ _ _ _ h hh
  · (repeat' split) <;> first | exact h | exact standing_reportForeign _ _ h

@[simp] theorem holdSlot_flight (s : State) (c : ControlSlot) : (s.holdSlot c).lc.flight = s.lc.flight := by
  unfold State.holdSlot
  split <;> simp

@[simp] theorem emptySlot_flight (s : State) (c : ControlSlot) : (s.emptySlot c).lc.flight = s.lc.flight := by
  cases c <;> rfl

theorem standing_holdSlot (s : State) (c : ControlSlot) (h : s.Standing) : (s.holdSlot c).Standing :=
  standing_of_view s _ h (by simp) (by simp) (by simp) (by simp) (by simp) (by simp)

theorem standing_emptySlot (s : State) (c : ControlSlot) (h : s.Standing) : (s.emptySlot c).Standing :=
  standing_of_view s _ h (by simp) (by simp) (by simp) (by simp) (by simp) (by simp)

theorem standing_settleJoin (s : State) (h : s.Standing) (hh : s.mu.state.hears = true) : s.settleJoin.Standing := by
  have hc := hears_held s h hh
  unfold State.settleJoin
  split
  · exact standing_enterListen _ hc (h.loader hc) h.low
  · refine standing_foundWall _ h ?_
    have := h.map
    rw [hc] at this
    simpa using this.symm

theorem standing_applyOwnJoin (s : State) (k : Completing) (h : s.Standing) (hh : s.mu.state.hears = true) :
    (s.applyOwnJoin k).Standing := by
  have hc := hears_held s h hh
  unfold State.applyOwnJoin
  split
  · exact standing_becomeMember _ _ h hc
  · refine standing_foundWall _ h ?_
    have := h.map
    rw [hc] at this
    simpa using this.symm

theorem standing_reportAlone (s : State) (h : s.Standing) : s.reportAlone.Standing := by
  unfold State.reportAlone
  split
  · exact standing_of_view s _ h (by simp) (by simp) (by simp) (by simp) (by simp) (by simp)
  · exact h

@[simp] theorem setAddressee_flight (s : State) (x : Station) (r : Retry) :
    (s.setAddressee x r).lc.flight = s.lc.flight := rfl

@[simp] theorem removeHead_flight (s : State) (x : Station) : (s.removeHead x).lc.flight = s.lc.flight := rfl

theorem standing_ownEntry (s : State) (e : OutEntry) (v : Verdict) (h : s.Standing) : (s.ownEntry e v).Standing := by
  unfold State.ownEntry State.giveUp
  dsimp only
  (repeat' split) <;>
    exact standing_of_view s _ h (by simp) (by simp) (by simp) (by simp) (by simp) (by simp)

theorem standing_ownBeacon (s : State) (f : WireFrame) (v : Verdict) (h : s.Standing) (hh : s.mu.state.hears = true) :
    (s.ownBeacon f v).Standing := by
  have h' := standing_setSlots s { s.lc.slots with beacon := false } h
  unfold State.ownBeacon
  dsimp only
  (repeat' split) <;> first | exact h' | skip
  rename_i b hb
  exact standing_applyBeacon _ _ _ h' (by simpa using hh) (readBeacon_nested _ _ _ hb)

theorem standing_ownLeave (s : State) (v : Verdict) (h : s.Standing) (hc : s.config.isSome = true) :
    (s.ownLeave v).Standing := by
  have h' := standing_holdSlot s .leave h
  unfold State.ownLeave
  dsimp only
  (repeat' split)
  · exact standing_detach _ h hc
  · exact h'
  · exact standing_detach _ h' (by simpa using hc)
  · exact h'

theorem standing_ownJoin (s : State) (f : WireFrame) (v : Verdict) (h : s.Standing) (hh : s.mu.state.hears = true) :
    (s.ownJoin f v).Standing := by
  have h' := standing_holdSlot s .join h
  unfold State.ownJoin
  dsimp only
  (repeat' split)
  · exact standing_applyOwnJoin _ _ (standing_emptySlot _ _ h) (by simpa using hh)
  · exact h'
  · exact standing_settleJoin _ (standing_emptySlot _ _ h') (by simpa using hh)
  · exact h'

theorem standing_ownReady (s : State) (f : WireFrame) (v : Verdict) (h : s.Standing) : (s.ownReady f v).Standing := by
  unfold State.ownReady
  (repeat' split)
  · exact standing_ready _ _ _ (standing_emptySlot _ _ h)
  · exact standing_holdSlot _ _ h
  · exact standing_ready _ _ _ (standing_emptySlot _ _ h)
  · exact standing_holdSlot _ _ h

theorem standing_ownDrop (s : State) (f : WireFrame) (v : Verdict) (h : s.Standing) : (s.ownDrop f v).Standing := by
  have h' := standing_holdSlot s .drop h
  unfold State.ownDrop
  dsimp only
  (repeat' split)
  · refine standing_applyDrop _ _ ?_
    exact standing_of_view s _ h (by simp) (by simp) (by simp) (by simp) (by simp) (by simp)
  · exact h'
  · exact standing_reportAlone _ (standing_applyDrop _ _ (standing_emptySlot _ _ h'))
  · exact h'

theorem standing_ownFrame (s : State) (a : Attempt) (e : FrameEnd) (h : s.Standing) (hh : s.mu.state.hears = true) :
    (s.ownFrame a e).Standing := by
  have hc := hears_held s h hh
  unfold State.ownFrame
  dsimp only
  generalize ht : (if verdictOf e = .spoiled then s.countSpoil else s) = t
  have h' : t.Standing := by
    subst ht
    split
    · exact standing_count _ _ h
    · exact h
  have hs : t.mu.state = s.mu.state := by
    subst ht
    split <;> simp
  have hg : t.config = s.config := by
    subst ht
    split <;> simp
  rw [← hs] at hh
  rw [← hg] at hc
  split
  · exact standing_ownBeacon _ _ _ h' hh
  · exact standing_ownDrop _ _ _ h'
  · exact standing_ownLeave _ _ h' hc
  · exact standing_ownJoin _ _ _ h' hh
  · exact standing_ownReady _ _ _ h'
  · exact standing_ownEntry _ _ _ h'

theorem standing_endFrame (s : State) (k : FrameKind) (e : FrameEnd) (h : s.Standing) : (s.endFrame k e).Standing := by
  have h' : ∀ l : Link, l.flight = none → (s.setLc l).Standing := fun l hl => standing_land s l h hl
  have hf := h.flight
  unfold State.endFrame
  dsimp only
  split
  · split
    · exact standing_receive _ _ _ _ (h' _ rfl)
    · rename_i a hr
      have hfl : s.lc.flight.isSome = true := by
        unfold roleIn at hr
        cases hq : s.lc.flight with
        | none => simp [hq] at hr
        | some _ => rfl
      refine standing_ownFrame _ _ _ (h' _ rfl) ?_
      rcases hf hfl with hm | hm <;> simp [hm, StationState.hears, StationState.learning]
    · rename_i hr
      have hfl : s.lc.flight.isSome = true := by
        unfold roleIn at hr
        cases hq : s.lc.flight with
        | none => simp [hq] at hr
        | some _ => rfl
      refine standing_enterConflict _ _ (h' _ rfl) ?_
      simp only [State.setLc_config]
      refine map_held s h ?_
      rcases hf hfl with hm | hm <;> simp [hm, StationState.mapless]
    · exact h
  · exact h

/-! ## Vertical start and the rows that follow inside an event -/

/-- The Commit Unit changes, record and phase-presence staying. -/
theorem standing_setCu (s : State) (c : Commit) (h : s.Standing) (hr : c.record = s.cu.record)
    (hp : c.phase = .absent ↔ s.cu.phase = .absent) : (s.setCu c).Standing := by
  obtain ⟨h1, h2, h3, h4, h5, h6, h7, h8, h9, h10⟩ := h
  constructor
  · simpa using h1
  · simpa using h2
  · simpa using h3
  · simpa [hr] using h4
  · simpa using h5
  · simpa [hp] using h6
  · simpa [State.self] using h7
  · simpa [hr] using h8
  · simpa using h9
  · simpa using h10

/-- The last commit of the record changes. -/
theorem standing_setLast (s : State) (r : Record) (l : Option LastCommit) (h : s.Standing) (hr : s.cu.record = some r) :
    (s.setRecord { r with last := l }).Standing := by
  obtain ⟨h1, h2, h3, h4, h5, h6, h7, h8, h9, h10⟩ := h
  rw [hr] at h4
  constructor
  · simpa using h1
  · simpa using h2
  · simpa using h3
  · simpa [State.setRecord] using h4
  · simpa using h5
  · simpa [State.setRecord] using h6
  · simpa [State.self] using h7
  · intro q hq
    simp [State.setRecord] at hq
    subst hq
    exact h8 r hr
  · simpa using h9
  · simpa using h10

/-- What the latest vertical start found due changes, no flip becoming due. -/
theorem standing_setHanded (s : State) (x : Handed) (h : s.Standing)
    (hx : x.flip = true → s.mu.state = .member ∧ s.mu.synced = true) : (s.setHanded x).Standing := by
  obtain ⟨h1, h2, h3, h4, h5, h6, h7, h8, h9, h10⟩ := h
  exact ⟨by simpa using h1, by simpa using h2, by simpa using h3, by simpa using h4, by simpa using h5,
    by simpa using h6, by simpa [State.self] using h7, by simpa using h8, by simpa using h9, by simpa using hx⟩

theorem standing_verticalStart (s : State) (v : Bool) (h : s.Standing) : (s.verticalStartBody v).Standing := by
  unfold State.verticalStartBody
  split
  · unfold State.handOn
    have h1 : ((s.latchSlots v).countFrame).Standing :=
      standing_of_view s _ h (by simp) (by simp) (by simp) (by simp) (by simp) (by simp)
    have h2 : (((s.latchSlots v).countFrame).countListen).Standing := by
      unfold State.countListen
      split
      · exact standing_members_grow _ _ h1 rfl rfl (fun _ hx => hx)
      · exact h1
    have h3 : ((((s.latchSlots v).countFrame).countListen).countWait).Standing := by
      unfold State.countWait
      split
      · exact standing_setCu _ _ h2 rfl Iff.rfl
      · exact h2
    have h4 : (((((s.latchSlots v).countFrame).countListen).countWait).fillBeacon).Standing := by
      unfold State.fillBeacon
      split
      · exact standing_setSlots _ _ h3
      · exact h3
    refine standing_setHanded _ _ h4 ?_
    intro hf
    simp only [State.flipTest, Bool.and_eq_true, decide_eq_true_eq] at hf
    exact hf.1
  · exact h

theorem standing_takeFlip (s : State) (r : Record) (l : LastCommit) (h : s.Standing) (hr : s.cu.record = some r)
    (hf : s.cu.phase ≠ .absent) : (s.takeFlip r l).Standing := by
  have h1 := standing_setLast s r (some { l with flipped := true }) h hr
  have h2 : ((s.setRecord { r with last := some { l with flipped := true } }).setCu
      { (s.setRecord { r with last := some { l with flipped := true } }).cu with
        phase := if hasStation r.required s.self then .building else .idle }).Standing := by
    refine standing_setCu _ _ h1 rfl ?_
    simp only [State.setRecord, State.setCu_cu]
    constructor
    · split <;> simp
    · intro h'; exact absurd h' hf
  refine standing_of_view _ _ h2 ?_ ?_ ?_ ?_ ?_ ?_ <;> simp [State.takeFlip, State.passFlip, State.setRecord, State.self]
  rfl

theorem standing_flipBody (s : State) (h : s.Standing) : s.flipBody.Standing := by
  unfold State.flipBody
  split
  · rename_i hf
    have hp : s.cu.phase ≠ .absent := fun h' => h.phase.mp h' (h.flip hf)
    have h' : (s.setHanded { s.handed with flip := false }).Standing := standing_setHanded _ _ h (by simp)
    dsimp only
    (repeat' split)
    · exact h'
    · exact h'
    · rename_i r hr _ l _
      exact standing_takeFlip _ _ _ h' (by simpa using hr) (by simpa using hp)
  · exact h

theorem standing_flipPassedBody (s : State) (h : s.Standing) : s.flipPassedBody.Standing := by
  unfold State.flipPassedBody
  split
  · have h' : (s.setHanded { s.handed with flipPassed := false }).Standing :=
      standing_setHanded _ _ h (by simpa using h.flip)
    dsimp only
    (repeat' split)
    · exact h'
    · exact h'
    · rename_i r hr _ l _
      exact standing_setLast _ _ _ h' (by simpa using hr)
  · exact h

theorem standing_lockLossBody (s : State) (h : s.Standing) : s.lockLossBody.Standing := by
  unfold State.lockLossBody
  split
  · have h' : (s.setHanded { s.handed with lockLoss := false }).Standing :=
      standing_setHanded _ _ h (by simpa using h.flip)
    exact standing_of_view _ _ h' (by simp) (by simp) (by simp) (by simp) (by simp) (by simp)
  · exact h

theorem standing_beaconLossBody (s : State) (h : s.Standing) : s.beaconLossBody.Standing := by
  unfold State.beaconLossBody
  split
  · exact standing_rankRetest _ (standing_setHanded _ _ h (by simpa using h.flip))
  · exact h

theorem standing_readyWaitBody (s : State) (h : s.Standing) : s.readyWaitBody.Standing := by
  unfold State.readyWaitBody
  split
  · have h' : (s.setHanded { s.handed with readyWait := false }).Standing :=
      standing_setHanded _ _ h (by simpa using h.flip)
    dsimp only
    (repeat' split)
    · exact h'
    · exact h'
    · exact standing_of_view _ _ h' (by simp) (by simp) (by simp) (by simp) (by simp) (by simp)
  · exact h

theorem standing_joiningPassageBody (s : State) (h : s.Standing) : s.joiningPassageBody.Standing := by
  unfold State.joiningPassageBody
  split
  · rename_i hd
    simp only [State.joiningDue, Bool.and_eq_true, decide_eq_true_eq] at hd
    refine standing_setSlots _ _ ?_
    have hl := hd.1.1
    obtain ⟨h1, h2, h3, h4, h5, h6, h7, h8, h9, h10⟩ := h
    rw [hl] at h1 h6 h10
    constructor
    · simpa [StationState.mapless] using h1
    · simpa using h2
    · simpa using h3
    · simpa using h4
    · simp [StationState.hears, StationState.learning]
    · simpa using h6
    · simp
    · simpa using h8
    · simp
    · simpa using h10
  · exact h

@[simp] theorem waitingSpanBody_flight (s : State) : s.waitingSpanBody.lc.flight = s.lc.flight := by
  simp [State.waitingSpanBody]

theorem standing_waitingSpanBody (s : State) (h : s.Standing) : s.waitingSpanBody.Standing :=
  standing_of_view s _ h (by simp) (by simp) (by simp) (by simp) (by simp) (by simp)

theorem standing_readyQueuedBody (s : State) (h : s.Standing) : s.readyQueuedBody.Standing := by
  unfold State.readyQueuedBody
  split
  · exact standing_setSlots _ _ h
  · exact h

theorem standing_settle (s : State) (h : s.Standing) : (settle s).Standing := by
  unfold settle
  dsimp only
  have h1 := standing_closeEvent _ (standing_flipBody s h)
  have h2 := standing_closeEvent _ (standing_flipPassedBody _ h1)
  have h3 := standing_closeEvent _ (standing_lockLossBody _ h2)
  have h4 := standing_closeEvent _ (standing_beaconLossBody _ h3)
  have h5 := standing_closeEvent _ (standing_readyWaitBody _ h4)
  have h6 : (closeEvent (closeEvent (closeEvent (closeEvent (closeEvent (closeEvent s.flipBody).flipPassedBody).lockLossBody).beaconLossBody).readyWaitBody).bankClearEndBody).Standing :=
    standing_closeEvent _ (standing_of_view _ _ h5 (by simp) (by simp) (by simp) (by simp) (by simp) (by simp))
  have h7 := standing_closeEvent _ (standing_joiningPassageBody _ h6)
  have h8 := standing_closeEvent _ (standing_waitingSpanBody _ h7)
  have h9 := standing_closeEvent _ (standing_readyQueuedBody _ h8)
  exact standing_closeEvent _ (standing_of_view _ _ h9 (by simp) (by simp) (by simp) (by simp) (by simp) (by simp))

/-! ## Loads and resets -/

theorem mapless_of_none (s : State) (h : s.Standing) (hc : s.config = none) : s.mu.state.mapless = true := by
  have := h.map
  rw [hc] at this
  simpa using this.symm

/-- Without a map nothing of a wall is held. -/
theorem standing_mapless (s : State) (m : Membership) (l : StartUp) (h : s.Standing) (hc : s.config = none)
    (hm : m.state.mapless = true) (hs : m.synced = false) (hl : l.resetLow = true → l.loader = .held) :
    ((s.setMu m).setSl l).Standing := by
  have hml := mapless_of_none s h hc
  have hsy : s.mu.synced = false := by
    by_contra h'
    have := h.synced (by simpa using h')
    revert hml this
    cases s.mu.state <;> simp [StationState.mapless, StationState.hears, StationState.learning]
  have hnm : s.mu.state ≠ .member := by
    intro h'; rw [h'] at hml; cases hml
  have hnj : s.mu.state ≠ .joining := by
    intro h'; rw [h'] at hml; cases hml
  have hmm : m.state ≠ .member := by
    intro h'; rw [h'] at hm; cases hm
  have hrec : s.cu.record = none := by
    have := h.record
    rw [hsy] at this
    simpa using this
  have hph : s.cu.phase = .absent := h.phase.mpr (fun h' => hnm h'.1)
  have hfl : s.lc.flight = none := by
    by_contra h'
    rcases h.flight (by rw [Option.isSome_iff_ne_none]; exact h') with h' | h'
    · exact hnj h'
    · exact hnm h'
  have hfp : s.handed.flip = false := by
    by_contra h'
    exact hnm (h.flip (by simpa using h')).1
  constructor <;> simp [hc, hm, hs, hrec, hph, hmm, hfl, hfp]
  simpa using hl

theorem standing_failLoad (s : State) (r : FaultReason) (h : s.Standing) (hc : s.config = none)
    (hl : s.sl.resetLow = false) : (s.failLoad r).Standing := by
  refine standing_raise _ _ ?_
  exact standing_mapless s { Membership.reset .fault with cause := .fault r } s.sl.done h hc rfl rfl
    (by simp [StartUp.done, hl])

theorem standing_load (s : State) (c : Configuration) (hl : s.sl.resetLow = false) : (s.load c).Standing := by
  unfold State.load
  dsimp only
  refine standing_land _ _ (standing_enterListen _ ?_ ?_ ?_) ?_
  · simp
  · simp [StartUp.done]
  · simp [StartUp.done, hl]
  · unfold Link.leaveFrame
    split <;> simp [State.enterListen, Link.emptied]

theorem standing_conclude (s : State) (v : Except FaultReason Configuration) (h : s.Standing) (hc : s.config = none)
    (hl : s.sl.resetLow = false) : (s.conclude v).Standing := by
  unfold State.conclude
  split
  · exact standing_failLoad _ _ h hc hl
  · exact standing_load _ _ hl

theorem standing_setSl (s : State) (l : StartUp) (h : s.Standing) (hc : s.config = none)
    (hl : l.resetLow = true → l.loader = .held) : (s.setSl l).Standing := by
  obtain ⟨h1, h2, h3, h4, h5, h6, h7, h8, h9, h10⟩ := h
  exact ⟨by simpa using h1, by simp [hc], by simpa using hl, by simpa using h4, by simpa using h5,
    by simpa using h6, by simpa [State.self] using h7, by simpa using h8, by simpa using h9, by simpa using h10⟩

/-- While the EEPROM is being read, no map is held and RESET_N is high. -/
theorem reading_view (s : State) (h : s.Standing) (ho : s.sl.loader ≠ .off) (hh : s.sl.loader ≠ .held) :
    s.config = none ∧ s.sl.resetLow = false := by
  constructor
  · by_contra h'
    exact ho (h.loader (by rw [Option.isSome_iff_ne_none]; exact h'))
  · by_contra h'
    exact hh (h.low (by simpa using h'))

theorem standing_failAttempt (s : State) (n : Nat) (h : s.Standing) (hc : s.config = none) (hl : s.sl.resetLow = false) :
    (s.failAttempt n).Standing := by
  unfold State.failAttempt
  split
  · exact standing_mapless s (Membership.reset .awaitConfig) { s.sl with loader := .off } h hc rfl rfl (by simp [hl])
  · exact standing_setSl _ _ h hc (by simp [hl])

theorem standing_eepromAttempt (s : State) (m : Option AckBit) (h : s.Standing) : (s.eepromAttemptBody m).Standing := by
  unfold State.eepromAttemptBody
  split <;> first | exact h | skip
  all_goals
    rename_i hl
    obtain ⟨hc, hr⟩ := reading_view s h (by simp [hl]) (by simp [hl])
    split
    · exact standing_failAttempt _ _ h hc hr
    · exact standing_setSl _ _ h hc (by simp [hr])

theorem standing_eepromExpiry (s : State) (h : s.Standing) : s.eepromExpiryBody.Standing := by
  unfold State.eepromExpiryBody
  split <;> first | exact h | skip
  rename_i hl
  obtain ⟨hc, hr⟩ := reading_view s h (by simp [hl]) (by simp [hl])
  split
  · exact standing_setSl _ _ h hc (by simp [hr])
  · exact h

theorem standing_eepromByte (s : State) (v : Byte) (h : s.Standing) : (s.eepromByteBody v).Standing := by
  unfold State.eepromByteBody
  dsimp only
  split <;> first | exact h | skip
  rename_i hl
  obtain ⟨hc, hr⟩ := reading_view s h (by simp [hl]) (by simp [hl])
  split
  · exact standing_conclude _ _ h hc hr
  · split
    · exact standing_failLoad _ _ h hc hr
    · exact standing_setSl _ _ h hc (by simp [hr])

theorem standing_hardReset (s : State) (low : Bool) : (s.hardReset low).Standing := by
  constructor <;>
    simp [State.hardReset, Membership.reset, Link.reset, Commit.reset, StartUp.reset, Handed.clear, StationState.mapless]

theorem standing_resetRelease (s : State) (h : s.Standing) : s.resetReleaseBody.Standing := by
  unfold State.resetReleaseBody
  split
  · rename_i hl
    refine standing_setSl _ _ h ?_ (by simp [StartUp.reset])
    by_contra h'
    have h1 := h.loader (by rw [Option.isSome_iff_ne_none]; exact h')
    rw [h.low hl] at h1
    cases h1
  · exact h

/-- With RESET_N high, as it is in a transaction. -/
theorem standing_softReset (s : State) (h : s.Standing) (hl : s.sl.resetLow = false) : s.softResetBody.Standing := by
  unfold State.softResetBody State.afterSoftReset
  dsimp only
  split
  · rename_i c hc
    have hc' : s.config = some c := by simpa using hc
    exact standing_enterListen _ (by simp [hc']) (by simpa using h.loader (by simp [hc'])) (by simp [hl])
  · rename_i hc
    have hc' : s.config = none := by simpa using hc
    constructor <;>
      simp [hc', hl, Membership.reset, Link.reset, Commit.reset, StartUp.reset, Handed.clear, StationState.mapless]

/-! ## Host commands and the rows that leave the standing alone -/

/-- A judged command keeps the standing where its judge does, RESET_N being high. -/
theorem standing_judged (judge : State → Judged) (s : State) (h : s.Standing)
    (hj : ∀ t : State, t.Standing → t.sl.resetLow = false → (judge t).1.Standing) : (s.judged judge).Standing := by
  unfold State.judged
  split
  · rename_i hp
    have h' : (s.openPort .idle []).Standing :=
      standing_of_view s _ h (by simp) (by simp) (by simp) (by simp) (by simp) (by simp)
    refine standing_of_view _ _ (hj _ h' ?_) (by simp) (by simp) (by simp) (by simp) (by simp) (by simp)
    unfold State.portReady at hp
    simp only [Bool.and_eq_true, Bool.not_eq_true'] at hp
    simpa using hp.1
  · exact h

theorem standing_same_lp (s t : State) (h : s.Standing) (hc : t.config = s.config) (hm : t.mu = s.mu) (hl : t.sl = s.sl)
    (hu : t.cu = s.cu) (hf : t.lc = s.lc) (hh : t.handed = s.handed) : t.Standing :=
  standing_of_view s t h hc hm hl hu (by rw [hf]) hh

theorem exactLength_fst (t : Tail) (n : Nat) (s : State) (j : State → Judged) (P : State → Prop) (h : P s) (hj : P (j s).1) :
    P (exactLength t n s j).1 := by
  unfold exactLength
  split
  · exact hj
  · exact h

theorem standing_judgePresent (s : State) (h : s.Standing) : s.judgePresent.1.Standing := by
  unfold State.judgePresent
  split <;> first | exact h | skip
  rename_i hp
  exact standing_setCu _ _ h rfl (by simp [hp])

theorem standing_judgeLeave (s : State) (h : s.Standing) : s.judgeLeave.1.Standing := by
  unfold State.judgeLeave
  split
  · split
    · exact standing_setSlots _ _ h
    · exact h
  · exact h

theorem standing_judgeJoin (s : State) (h : s.Standing) : s.judgeJoin.1.Standing := by
  unfold State.judgeJoin
  split
  · rename_i hs
    have hc := map_held s h (by rcases hs with hs | hs <;> simp [hs, StationState.mapless])
    exact standing_enterListen _ hc (h.loader hc) h.low
  · exact h

theorem standing_judgeConfigRecord (s : State) (l : List Byte) (h : s.Standing) (hr : s.sl.resetLow = false) :
    (s.judgeConfigRecord l).1.Standing := by
  unfold State.judgeConfigRecord
  dsimp only
  split
  · rename_i ha
    have hc : s.config = none := by
      have := h.map
      simp only [State.awaitsRecords, Bool.or_eq_true, decide_eq_true_eq] at ha
      rcases ha with ha | ha <;> (rw [ha] at this; simpa [StationState.mapless] using this)
    (repeat' split) <;> first | exact h | exact standing_setSl _ _ h hc (by simp [hr])
  · exact h

theorem standing_judgeConfigEnd (s : State) (l : List Byte) (h : s.Standing) (hr : s.sl.resetLow = false) :
    (s.judgeConfigEnd l).1.Standing := by
  unfold State.judgeConfigEnd
  split
  · rename_i ha
    have hc : s.config = none := by
      have := h.map
      simp only [State.awaitsRecords, Bool.or_eq_true, decide_eq_true_eq] at ha
      rcases ha with ha | ha <;> (rw [ha] at this; simpa [StationState.mapless] using this)
    (repeat' split)
    · exact standing_failLoad _ _ h hc hr
    · exact standing_load _ _ hr
    · exact standing_failLoad _ _ h hc hr
  · exact h

theorem standing_judgeFill (s : State) (l : List Byte) (h : s.Standing) : (s.judgeFill l).1.Standing := by
  unfold State.judgeFill
  dsimp only
  (repeat' split) <;> first | exact h | skip
  exact standing_of_view s _ h (by simp) (by simp) (by simp) (by simp) (by simp) (by simp)

theorem standing_judgeSetWindow (s : State) (l : List Byte) (h : s.Standing) : (s.judgeSetWindow l).1.Standing := by
  unfold State.judgeSetWindow
  dsimp only
  (repeat' split) <;> first | exact h | exact standing_of_view s _ h (by simp) (by simp) (by simp) (by simp) (by simp) (by simp)

theorem standing_frameStart (s : State) (w : StartField) (h : s.Standing) : (s.frameStartBody w).Standing := by
  have hk : ∀ a : Option Attempt, (a.isSome → s.mu.state = .joining ∨ s.mu.state = .member) → (s.seeStart a).Standing := by
    intro a ha
    have hfl : (s.seeStart a).lc.flight = a := by
      unfold State.seeStart; dsimp only; (repeat' split) <;> simp
    obtain ⟨h1, h2, h3, h4, h5, h6, h7, h8, h9, h10⟩ := h
    constructor
    · simpa using h1
    · simpa using h2
    · simpa using h3
    · simpa using h4
    · simpa using h5
    · simpa using h6
    · simpa [State.self] using h7
    · simpa using h8
    · rw [hfl]; simpa using ha
    · simpa using h10
  unfold State.frameStartBody
  (repeat' split) <;> first | exact h | skip
  · exact hk _ (by simp)
  · rename_i hm _ _ _
    exact hk _ (fun _ => hm)

theorem standing_frameCutShort (b : Bool) (s : State) (h : s.Standing) : (s.frameCutShortBody b).Standing := by
  unfold State.frameCutShortBody
  dsimp only
  split
  · have hl := standing_land s s.lc.afterFrame h rfl
    split
    · rename_i hb
      have hf := h.flight (by simp only [Bool.and_eq_true] at hb; exact hb.2)
      have hm : s.config.isSome = true := by
        rw [h.map]; rcases hf with hf | hf <;> simp [hf, StationState.mapless]
      exact standing_enterConflict _ _ hl (by simpa using hm)
    · exact hl
  · exact h

theorem standing_linkIdle (s : State) (h : s.Standing) : s.linkIdleBody.Standing := standing_land _ _ h rfl

@[simp] theorem routePixelBody_flight (s : State) : s.routePixelBody.lc.flight = s.lc.flight := by
  unfold State.routePixelBody
  dsimp only
  split
  · rfl
  · split
    · rfl
    · split
      · unfold State.closeIfFull State.placePixel
        (repeat' split) <;> simp
      · split <;> simp

@[simp] theorem endStream_flight (s : State) (t : StreamTransaction) : (s.endStream t).lc.flight = s.lc.flight := by
  unfold State.endStream
  split <;> simp

@[simp] theorem streamReleaseBody_flight (s : State) : s.streamReleaseBody.lc.flight = s.lc.flight := by
  unfold State.streamReleaseBody
  dsimp only
  (repeat' split) <;> simp

@[simp] theorem streamTold_flight (s : State) : s.streamTold.lc.flight = s.lc.flight := by
  simp [State.streamTold]

@[simp] theorem tell_flight (s : State) (o : Operation) : (s.tell o).lc.flight = s.lc.flight := by
  unfold State.tell
  split <;> simp

@[simp] theorem operationEndBody_flight (s : State) (v : Bool) : (s.operationEndBody v).lc.flight = s.lc.flight := by
  unfold State.operationEndBody
  dsimp only
  (repeat' split) <;> simp

@[simp] theorem holdoffExpiryBody_flight (s : State) (c : ControlSlot) :
    (s.holdoffExpiryBody c).lc.flight = s.lc.flight := by
  unfold State.holdoffExpiryBody
  split <;> simp

@[simp] theorem addresseeExpiryBody_flight (s : State) (x : Station) :
    (s.addresseeExpiryBody x).lc.flight = s.lc.flight := rfl

/-- Every command's own part keeps the standing. -/
theorem effectOf_standing (c : Instr) (s : State) (h : s.Standing) : (effectOf c s).Standing := by
  cases c <;> dsimp only [effectOf]
  case powerOn => exact standing_hardReset _ _
  case resetPinAssert =>
    unfold State.resetAssertBody; split
    · exact h
    · exact standing_hardReset _ _
  case resetPinRelease => exact standing_resetRelease _ h
  case eepromAttempt => exact standing_eepromAttempt _ _ h
  case eepromRetryWaitExpiry => exact standing_eepromExpiry _ h
  case eepromByte => exact standing_eepromByte _ _ h
  case nop => exact standing_judged _ _ h (fun t ht hr => exactLength_fst _ _ _ _ _ ht ht)
  case setWindow => exact standing_judged _ _ h (fun t ht hr => exactLength_fst _ _ _ _ _ ht (standing_judgeSetWindow _ _ ht))
  case fill => exact standing_judged _ _ h (fun t ht hr => exactLength_fst _ _ _ _ _ ht (standing_judgeFill _ _ ht))
  case present => exact standing_judged _ _ h (fun t ht hr => exactLength_fst _ _ _ _ _ ht (standing_judgePresent _ ht))
  case leave => exact standing_judged _ _ h (fun t ht hr => exactLength_fst _ _ _ _ _ ht (standing_judgeLeave _ ht))
  case join => exact standing_judged _ _ h (fun t ht hr => exactLength_fst _ _ _ _ _ ht (standing_judgeJoin _ ht))
  case softReset => exact standing_judged _ _ h (fun t ht hr => exactLength_fst _ _ _ _ _ ht (standing_softReset _ ht hr))
  case configRecord =>
    refine standing_judged _ _ h (fun t ht hr => ?_)
    split
    · exact standing_judgeConfigRecord _ _ ht hr
    · exact ht
  case configEnd => exact standing_judged _ _ h (fun t ht hr => exactLength_fst _ _ _ _ _ ht (standing_judgeConfigEnd _ _ ht hr))
  case unknown => exact standing_judged _ _ h (fun t ht hr => ht)
  case linkIdle => exact standing_linkIdle _ h
  case frameStart => exact standing_frameStart _ _ h
  case frameCutShort => exact standing_frameCutShort _ _ h
  case beacon => exact standing_endFrame _ _ _ h
  case joinFrame => exact standing_endFrame _ _ _ h
  case leaveFrame => exact standing_endFrame _ _ _ h
  case readyFrame => exact standing_endFrame _ _ _ h
  case dropFrame => exact standing_endFrame _ _ _ h
  case spanFrame => exact standing_endFrame _ _ _ h
  case fillFrame => exact standing_endFrame _ _ _ h
  case verticalStart => exact standing_verticalStart _ _ h
  case lockLoss => exact standing_lockLossBody _ h
  case beaconLoss => exact standing_beaconLossBody _ h
  case readyWaitExpiry => exact standing_readyWaitBody _ h
  case joiningPassage => exact standing_joiningPassageBody _ h
  case flip => exact standing_flipBody _ h
  case flipPassed => exact standing_flipPassedBody _ h
  case waitingSpanAdmit => exact standing_waitingSpanBody _ h
  case readyQueued => exact standing_readyQueuedBody _ h
  all_goals exact standing_of_view s _ h (by simp) (by simp) (by simp) (by simp) (by simp) (by simp)

end Sys2Proof.Machine
end

