-- ==== Sys2Proof/Tests/Slice0.lean ====
section
/-! SUPPORT. Tests of the author: an ill-formed command for each check of WellFormed, values worked out in the spec, and, for
each statement with hypotheses, a concrete state and operands that meet them, clause by clause. -/

namespace Sys2Proof.Tests

open Sys2Proof Sys2Proof.Machine

/-! ## States to test on -/

/-- The four-tile wall of 01, section 1.9. -/
def tiles : List Tile := [⟨0, 0, 0, 512, 320⟩, ⟨1, 528, 0, 512, 320⟩, ⟨2, 0, 340, 512, 320⟩, ⟨3, 528, 340, 512, 320⟩]

/-- Its map at station 1; the digest is tested below. -/
def wall : TileMap := { width := 1040, height := 660, tiles := tiles, self := 1, digest := 0xA74F#16 }

/-- Line time 32.0 µs, blank 200 lines, the defaults of R196. -/
def config : Configuration :=
  { map := wall, lineTime := 320, blank := 200, readyLimit := 8, commitLead := 2, format := .rgb24, policy := .keep,
    background := 0#24 }

/-- In the active rows since 164,000; the vertical start was at 100,000. -/
def active : Generator := { blankStart := 100000, correction := none, activeSince := some 164000, lastVertical := some 100000 }

/-- In the blank that began at 100,000. -/
def blanking : Generator := { active with activeSince := none }

/-- LISTEN with the map held, no bank clear in progress, in step on an idle link. -/
def listener : State :=
  { State.reset with
    now := 200000, config := some config, mu := Membership.reset .listen, lc := { Link.reset with view := .idle },
    tu := { Timing.reset with generator := some active }, we := Window.reset.home ⟨1, 528, 0, 512, 320⟩,
    sl := { StartUp.reset false with loader := .off } }

/-- Epoch 30 required of stations 0 to 3. -/
def record : Record := { collecting := 30#16, required := 0xF#16, ready := 0#16, last := none }

/-- A synced MEMBER in BUILDING of the wall of stations 0 to 3. -/
def member : State :=
  { listener with
    mu := { listener.mu with state := .member, synced := true, members := 0xF#16, memberRecorded := true },
    cu := { record := some record, phase := .building, timer := 0 } }

/-- The phase of the Commit Unit replaced. -/
def inPhase (s : State) (p : Phase) : State := { s with cu := { s.cu with phase := p } }

/-- The link view replaced. -/
def onLink (s : State) (v : LinkView) : State := { s with lc := { s.lc with view := v } }

theorem test_quiet : Quiet State.reset ∧ Quiet listener ∧ Quiet member := by decide

/-! ## WellFormed: an ill-formed command for each check -/

/-- A READY frame whose length field says 7 with no body. -/
def shortFrame : FrameEnd := ⟨{ makeFrame .ready 2 (List.replicate 7 0x00#8) with body := [] }, true, false⟩

theorem test_wf_unknown : (Instr.unknown 0 0x13#8 ⟨[], false⟩).wf = false ∧ (Instr.unknown 0 0x15#8 ⟨[], false⟩).wf = true := by
  decide

theorem test_wf_emptyTransaction : (Instr.emptyTransaction 0 8).wf = false ∧ (Instr.emptyTransaction 0 7).wf = true := by
  decide

theorem test_wf_readFront :
    (Instr.readFront ⟨0, 0⟩ (List.replicate 9 0x00#8)).wf = false ∧ (Instr.readFront ⟨0, 0⟩ (List.replicate 8 0x00#8)).wf = true := by
  decide

theorem test_wf_frames :
    (Instr.beacon 0 shortFrame).wf = false ∧ (Instr.joinFrame 0 shortFrame).wf = false ∧
      (Instr.leaveFrame 0 shortFrame).wf = false ∧ (Instr.readyFrame 0 shortFrame).wf = false ∧
      (Instr.dropFrame 0 shortFrame).wf = false ∧ (Instr.spanFrame 0 shortFrame).wf = false ∧
      (Instr.fillFrame 0 shortFrame).wf = false ∧
      (Instr.readyFrame 0 ⟨makeFrame .ready 2 (List.replicate 7 0x00#8), true, false⟩).wf = true := by
  decide

/-! ## Values worked out in the spec -/

theorem test_noWordSpellsACommand : decodeTableWord 8 0x22 = none ∧ State.reset.withFetchWord 8 0x22 = State.reset := by decide

/-- The CRC of R12 on "123456789", the check value of the polynomial 1021h with initial value FFFFh. -/
theorem test_crc : crcOfBytes [0x31#8, 0x32#8, 0x33#8, 0x34#8, 0x35#8, 0x36#8, 0x37#8, 0x38#8, 0x39#8] = 0x29B1#16 := by
  decide +kernel

/-- 01, section 1.9, digest input: 40 bytes that begin 0410h 0294h, and the digest that this map then has. -/
theorem test_digest :
    (digestBytes 1040 660 tiles).length = 40 ∧ (digestBytes 1040 660 tiles).take 4 = [0x04#8, 0x10#8, 0x02#8, 0x94#8] ∧
      (digestBytes 1040 660 tiles).drop 31 = [0x03#8, 0x02#8, 0x10#8, 0x01#8, 0x54#8, 0x02#8, 0x00#8, 0x01#8, 0x40#8] ∧
      mapDigest 1040 660 tiles = wall.digest := by decide +kernel

/-- 01, section 1.9, owner lookups at station 1. -/
theorem test_owners :
    [(600, 100), (100, 100), (520, 100), (700, 330), (100, 650), (1039, 659), (1040, 0)].map
        (fun p => (wall.owner p.1 p.2).map Tile.station) =
      [some 1, some 0, none, none, some 2, some 3, none] := by decide

/-- 01, section 1.9, the clips of FILL(500, 300, 540, 350). -/
theorem test_clips :
    tiles.map (fun t => t.clip ⟨500, 300, 540, 350⟩) =
      [some ⟨500, 300, 511, 319⟩, some ⟨0, 300, 12, 319⟩, some ⟨500, 0, 511, 10⟩, some ⟨0, 0, 12, 10⟩] := by decide

/-- The widening table of R142. -/
theorem test_widen : [31, 16, 0].map widen5 = [255, 132, 0] ∧ [63, 32, 0].map widen6 = [255, 130, 0] := by decide

/-- The holdoff table of R33, in units of 0.1 µs. -/
theorem test_holdoffs : [1, 2, 3, 4, 5, 6, 7, 24].map holdoff = [200, 400, 800, 1600, 3200, 6400, 12800, 12800] := by decide

/-- 04, section 4.4: the first and last beacons of the newcomer, and the other frame with offset −1. -/
theorem test_phases :
    phaseError (9100 - 124) 166400 = (8976, 0) ∧ lockAndCorrection 8976 320 = (.acquiring, 2560) ∧
      lockAndCorrection 0 320 = (.locked, 0) ∧ phaseError (166000 - 124) 166400 = (-524, -1) ∧
      lockAndCorrection (-524) 320 = (.locked, -524) := by decide

/-- 02, section 2.2: contention values, six bits; and 02, section 2.8: the READY of one station 6 loses the third kind bit to
the JOIN of another. -/
theorem test_contention :
    ((makeFrame .span 2 []).bits.take 6, (makeFrame .fill 5 []).bits.take 6, (makeFrame .ready 9 []).bits.take 6) =
        ([true, true, false, false, true, false], [true, false, false, true, false, true],
         [false, true, true, false, false, true]) ∧
      firstDifference 0 (makeFrame .ready 6 []).bits (makeFrame .join 6 []).bits = some (8, true) := by decide

/-- 05, section 5.14: count 903 against flip frame 901 is late by 2; R105: a frame 8 ahead is waited for, one 9 ahead not. -/
theorem test_flipFrames :
    flipFrameReached 903#32 901#32 = true ∧ flipFrameReached 900#32 901#32 = false ∧ flipFrameReached 0#32 8#32 = false ∧
      flipFrameReached 0#32 9#32 = true := by decide

/-- The record of kind NONE, and LATE_FLIP(17, 2), as bytes (11, section 11.4). -/
theorem test_eventBytes :
    (EventRecord.only .absent).bytes = List.replicate 11 0x00#8 ∧
      (EventRecord.lateFlip 17#16 2#32).bytes =
        [0x02#8, 0x09#8, 0x00#8, 0x11#8, 0x00#8, 0x00#8, 0x00#8, 0x00#8, 0x00#8, 0x00#8, 0x02#8] := by decide

/-- HOLD in 07, section 7.7: asserted at 24, kept down to 9, released at 8. -/
theorem test_hold : holdLevel false 23 = false ∧ holdLevel false 24 = true ∧ holdLevel true 9 = true ∧ holdLevel true 8 = false := by
  decide

/-! ## Premises met: the queue, reset, the Local Port -/

/-- A local run of 12 pixels being written into row 100. -/
def writing : State :=
  { member with
    we := { member.we with localRun := some ⟨1, 30#16, 100, 0, List.replicate 12 0xFFFFFF#24⟩ },
    fs := { member.fs with
      operation := some ⟨.stream, 30#16, 100, 0, List.replicate 12 0xFFFFFF#24, .b, false⟩, lastServed := .stream,
      dirty := [100] } }

/-- RESET_N low. -/
def low : State := { State.reset with sl := StartUp.reset true }

/-- A transaction in progress. -/
def inside (s : State) (t : Transaction) : State := { s with lp := { s.lp with transaction := t } }

/-- The last commit of epoch 29, not flipped yet. -/
def pendingRecord : Record := { record with last := some ⟨29#16, 5003#32, false⟩ }

/-- A MEMBER in HELD, waiting for the flip of epoch 29. -/
def holding : State := { member with cu := { record := some pendingRecord, phase := .held, timer := 0 } }

/-- An event record. -/
def anEvent : EventRecord := EventRecord.flipped 29#16

theorem test_EmptyQueueSettles_premises : member.pending = [] ∧ Quiet member := by decide

theorem test_PowerOnAndResetPin_premises :
    (Quiet member ∧ member.sl.resetLow = false ∧ member.fs.operation = none) ∧
      (Quiet writing ∧ writing.fs.operation ≠ none) ∧ (Quiet low ∧ low.sl.resetLow = true) ∧
      (Quiet (inside writing (.readEvent none)) ∧ (inside writing (.readEvent none)).csLow = true) ∧
      (Quiet (inside writing (.response 0)) ∧ (inside writing (.response 0)).csLow = false) := by decide

theorem test_SoftReset_premises :
    (Quiet member ∧ member.portReady = true ∧ member.config = some config ∧ member.fs.operation = none) ∧
      (Quiet writing ∧ writing.portReady = true ∧ writing.fs.operation ≠ none) ∧
      (Quiet State.reset ∧ State.reset.portReady = true ∧ State.reset.config = none) ∧
      (⟨[], true⟩ : Tail) ≠ ⟨[], false⟩ := by decide

theorem test_Nop_premises : (Quiet member ∧ member.portReady = true) ∧ ∃ t, exec (.nop 0 ⟨[], false⟩) member = .next t :=
  ⟨by decide, _, rfl⟩

theorem test_UnknownEmptyAndReset_premises :
    (Quiet holding ∧ holding.portReady = true) ∧ (Quiet low ∧ low.sl.resetLow = true) ∧
      (∀ rise ∈ [none, some (low.now + 1)],
        Quiet (inside low (.abandoned rise)) ∧ (inside low (.abandoned rise)).misoDriven = false ∧
          (inside low (.abandoned rise)).csLow = true) ∧
      (inside member (.readEvent none)).misoDriven = true ∧
      (inside member (.response (member.now + 1))).misoDriven = true ∧
      (inside member (.response member.now)).csLow = false ∧
      (inside member (.readFront ⟨0, 0, 511, 319⟩ 320 member.now)).misoDriven = false := by decide

theorem test_ReadStatus_premises :
    (Quiet holding ∧ holding.portReady = true ∧ holding.cu.record = some pendingRecord ∧
        holding.pendingFlip = some ⟨29#16, 5003#32, false⟩) ∧
      (listener.cu.record = none ∧ listener.pendingFlip = none) := by decide

theorem test_ReadEvent_premises :
    (Quiet member ∧ member.portReady = true) ∧
      (Quiet (inside member (.readEvent (some anEvent))) ∧
        (inside member (.readEvent (some anEvent))).lp.transaction = .readEvent (some anEvent)) ∧
      (Quiet (inside member (.readEvent none)) ∧ (inside member (.readEvent none)).lp.transaction = .readEvent none) := by
  decide

theorem test_ReadCounters_premises :
    (Quiet member ∧ member.portReady = true) ∧
      (Quiet (inside member (.readCounters Counters.zero)) ∧
        (inside member (.readCounters Counters.zero)).lp.transaction = .readCounters Counters.zero) := by decide

theorem test_ReadFront_premises :
    (Quiet member ∧ member.portReady = true) ∧
      (∀ row ∈ [319, 320], Quiet (inside member (.readFront ⟨0, 0, 511, 319⟩ row (member.now + 1)))) ∧
      319 ≤ (⟨0, 0, 511, 319⟩ : Rect).y1 ∧ (⟨0, 0, 511, 319⟩ : Rect).y1 < 320 ∧ member.now + 0 < member.now + 1 ∧
      member.now + 1 ≤ member.now + 1 := by decide

theorem test_EventQueue_premises :
    ({ Port.reset with events := List.replicate 31 anEvent } : Port).events.length < 32 ∧
      32 ≤ ({ Port.reset with events := List.replicate 32 anEvent } : Port).events.length := by decide

/-! ## Premises met: start-up -/

/-- The two-wire controller replaced. -/
def withLoader (l : Loader) (image : List Byte) : State :=
  { State.reset with sl := { State.reset.sl with loader := l, image := image } }

/-- AWAIT_CONFIG with a host image. -/
def awaiting (image : List ConfigRecord) : State :=
  { State.reset with mu := Membership.reset .awaitConfig, sl := ⟨false, .off, [], image⟩ }

/-- STATION 1, CANVAS 512 × 320, TILE 1 over all of it, PANEL 32.0 µs and 200 lines, END. -/
def imageRecords : List ConfigRecord :=
  [⟨0x01#8, [0x01#8]⟩, ⟨0x02#8, [0x02#8, 0x00#8, 0x01#8, 0x40#8]⟩,
   ⟨0x03#8, [0x01#8, 0x00#8, 0x00#8, 0x00#8, 0x00#8, 0x02#8, 0x00#8, 0x01#8, 0x40#8]⟩,
   ⟨0x04#8, [0x01#8, 0x40#8, 0xC8#8]⟩, ⟨0x00#8, []⟩]

/-- The CRC of that image. -/
def imageCrc : List Byte := natToBytes 2 (crcOfBytes (hostImageBytes imageRecords)).toNat

/-- Records that fill the host image to 1,013 bytes. -/
def nearlyFull : List ConfigRecord :=
  List.replicate 3 ⟨0x40#8, List.replicate 255 0x00#8⟩ ++ [⟨0x40#8, List.replicate 240 0x00#8⟩]

theorem imageFault_imageRecords :
    imageFault imageRecords (hostImageBytes imageRecords) (BitVec.ofNat 16 (bytesToNat imageCrc)) = none := by
  decide +kernel

theorem test_EepromAttempt_premises :
    (Quiet State.reset ∧ State.reset.sl.loader = .recovery) ∧
      (Quiet (withLoader (.attempt 2) []) ∧ (withLoader (.attempt 2) []).sl.loader = .attempt 2) ∧
      (Quiet (withLoader (.attempt 3) []) ∧ (withLoader (.attempt 3) []).sl.loader = .attempt 3) ∧
      (Quiet (withLoader (.waiting 1 50000) []) ∧ 50000 ≤ (withLoader (.waiting 1 50000) []).now + 50000 ∧
        (withLoader (.waiting 1 50000) []).now + 49999 < 50000) := by decide

theorem test_EepromByte_premises :
    (Quiet (withLoader .reading [0x00#8]) ∧ completeImage [0x00#8, 0x00#8] = none) ∧
      (completeImage (List.replicate 1024 0xFF#8) = none ∧ 1024 ≤ (List.replicate 1024 0xFF#8).length) ∧
      (completeImage [0x00#8, 0x00#8, 0x00#8, 0x00#8] = some [⟨0x00#8, []⟩] ∧
        imageFault [⟨0x00#8, []⟩] [0x00#8, 0x00#8] 0#16 = some .crcMismatch) ∧
      completeImage (hostImageBytes imageRecords ++ imageCrc) = some imageRecords := by decide +kernel

theorem test_ValidatedMap_premises :
    ∃ c, validate imageRecords (hostImageBytes imageRecords) (BitVec.ofNat 16 (bytesToNat imageCrc)) = .ok c :=
  ⟨configurationOf imageRecords, by simp only [validate, imageFault_imageRecords]⟩

theorem test_ConfigRecord_premises :
    (Quiet (awaiting []) ∧ (awaiting []).portReady = true ∧ (awaiting []).mu.state = .awaitConfig) ∧
      (Quiet (awaiting imageRecords) ∧ (awaiting imageRecords).sl.hostImage.getLast? = some ⟨0x00#8, []⟩) ∧
      (Quiet (awaiting nearlyFull) ∧ (hostImageBytes nearlyFull).length + (2 + 7) ≤ 1022 ∧
        1022 < (hostImageBytes nearlyFull).length + (2 + 8)) ∧
      (Quiet member ∧ member.mu.state ≠ .awaitConfig ∧ member.mu.state ≠ .fault) := by decide +kernel

theorem test_ConfigEnd_premises :
    (Quiet (awaiting []) ∧ (awaiting []).portReady = true ∧ hostImageEnds (awaiting []).sl.hostImage = false) ∧
      (Quiet (awaiting imageRecords) ∧ (awaiting imageRecords).portReady = true ∧
        hostImageEnds (awaiting imageRecords).sl.hostImage = true) ∧
      imageFault imageRecords (hostImageBytes imageRecords) 0#16 = some .crcMismatch ∧ imageCrc.length = 2 := by
  decide +kernel

/-! ## Premises met: the Window Engine -/

/-- A taken stream transaction of epoch 30. -/
def taken : StreamTransaction := { result := .ok, epoch := some 30#16, overrun := false, entered := true }

/-- A buffered pixel at a canvas point. -/
def pixelAt (x y : Nat) (marked : Bool) : BufferedPixel := ⟨0x123456#24, x, y, 30#16, marked⟩

/-- A closed span for station `x`. -/
def spanFor (x : Station) : Run := ⟨x, 30#16, 100, 500, [0#24]⟩

/-- A taken stream with `n` pixels buffered at column 600, the assembler's bytes, a closed span waiting. -/
def streaming (n : Nat) (bytes : List Byte) : State :=
  { inside member (.stream taken) with
    we := { member.we with
      buffer := List.replicate n (pixelAt 600 100 false), assembler := bytes, cursor := some (1039, 319),
      openRun := some ⟨1, 30#16, 100, 70, [0#24]⟩, waitingSpans := [spanFor 0] },
    lc := { member.lc with outbound := List.replicate 48 ⟨0, 30#16, .span 0 0 [0#24]⟩ } }

/-- One pixel to route, an open run and `queued` outbound entries to station 3. -/
def routing (p : BufferedPixel) (run : Option Run) (queued : Nat) : State :=
  { member with
    we := { member.we with buffer := [p], openRun := run },
    lc := { member.lc with outbound := List.replicate queued ⟨3, 30#16, .span 0 0 [0#24]⟩ } }

/-- The local run to which column 600 of row 100 is the next pixel, with `n` pixels. -/
def localRun (n : Nat) : Run := ⟨1, 30#16, 100, 72 - n, List.replicate n 0#24⟩

/-- The member table replaced. -/
def ofMembers (m : StationSet) (s : State) : State := { s with mu := { s.mu with members := m } }

/-- A local fill job. -/
def aJob : FillJob := ⟨30#16, 0#24, ⟨0, 0, 3, 3⟩, 1⟩

/-- A member whose local fill job is being written. -/
def filling : State :=
  { member with
    we := { member.we with job := some aJob },
    fs := { member.fs with operation := some ⟨.localFill, 30#16, 1, 0, List.replicate 4 0#24, .b, false⟩, lastServed := .localFill } }

theorem test_SetWindow_premises :
    (Quiet member ∧ member.portReady = true ∧ member.config = some config) ∧ lengthIs ⟨[], false⟩ 8 = false ∧
      (0 ≤ 1039 ∧ 1039 < config.map.width ∧ 0 ≤ 659 ∧ 659 < config.map.height) ∧ ¬1040 < config.map.width ∧
      (Quiet State.reset ∧ State.reset.portReady = true ∧ State.reset.config = none) := by decide

theorem test_StreamIsTaken_premises :
    (∀ p ∈ [Phase.idle, .closing, .waiting, .held], (inPhase filling p).portReady = true ∧ Quiet (inPhase filling p)) ∧
      (Quiet filling ∧ filling.portReady = true ∧ filling.cu.phase = .building ∧ filling.we.job.isSome) ∧
      (Quiet listener ∧ listener.portReady = true ∧ listener.cu.phase = .absent) ∧
      (Quiet member ∧ member.portReady = true ∧ member.cu.phase = .building ∧ member.we.job = none ∧
        member.cu.record = some record) := by decide

theorem test_PixelEnters_premises :
    (Quiet (inside listener (.stream { taken with epoch := none }))) ∧
      (Quiet (streaming 31 [0x00#8]) ∧ (streaming 31 [0x00#8]).lp.transaction = .stream taken ∧
        (streaming 31 [0x00#8]).we.assembler.length + 1 < (streaming 31 [0x00#8]).format.bytes) ∧
      (Quiet (streaming 31 [0x00#8, 0x00#8]) ∧
        (streaming 31 [0x00#8, 0x00#8]).format.bytes ≤ (streaming 31 [0x00#8, 0x00#8]).we.assembler.length + 1 ∧
        (streaming 31 [0x00#8, 0x00#8]).we.buffer.length < 32 ∧
        (streaming 31 [0x00#8, 0x00#8]).we.window = some ⟨528, 0, 1039, 319⟩ ∧
        (streaming 31 [0x00#8, 0x00#8]).we.cursor = some (1039, 319)) := by decide

theorem test_Overrun_premises :
    Quiet (streaming 32 [0x00#8, 0x00#8]) ∧ (streaming 32 [0x00#8, 0x00#8]).lp.transaction = .stream taken ∧
      taken.epoch = some 30#16 ∧ taken.overrun = false ∧ { taken with overrun := true }.overrun = true ∧
      (streaming 32 [0x00#8, 0x00#8]).format.bytes ≤ (streaming 32 [0x00#8, 0x00#8]).we.assembler.length + 1 ∧
      32 ≤ (streaming 32 [0x00#8, 0x00#8]).we.buffer.length := by decide

/-- A local run in the bank writer, an open one behind it. -/
def runBehind (p : BufferedPixel) (waiting : List Run) : State :=
  { writing with we := { writing.we with buffer := [p], openRun := some (localRun 12), waitingLocals := waiting } }

theorem test_ClosedRun_premises :
    ((localRun 12).addressee = (routing (pixelAt 600 100 false) (some (localRun 12)) 0).self ∧
        (routing (pixelAt 600 100 false) (some (localRun 12)) 0).we.localRun = none ∧
        (routing (pixelAt 600 100 false) (some (localRun 12)) 0).we.waitingLocals = []) ∧
      ((runBehind (pixelAt 600 100 false) []).we.openRun = some (localRun 12) ∧
        (runBehind (pixelAt 600 100 false) []).we.localRun ≠ none) ∧
      ((spanFor 0).addressee ≠ member.self ∧ (routing (pixelAt 600 100 false) (some (spanFor 0)) 47).lc.outbound.length < 48 ∧
        48 ≤ (routing (pixelAt 600 100 false) (some (spanFor 0)) 48).lc.outbound.length) ∧
      ((streaming 0 []).Unraised ∧ (streaming 0 []).we.waitingSpans = [] ++ [spanFor 0] ∧
        (streaming 0 []).lc.outbound.length + 0 = 48) ∧
      ({ streaming 0 [] with lc := member.lc } : State).Unraised ∧
      ({ member with
          we := { member.we with waitingSpans := [spanFor 0] ++ [spanFor 2] },
          lc := { member.lc with outbound := List.replicate 47 ⟨3, 30#16, .span 0 0 [0#24]⟩ } } : State).Unraised := by
  decide

theorem test_StreamRelease_premises :
    (Quiet (streaming 1 [0x00#8]) ∧ (streaming 1 [0x00#8]).lp.transaction = .stream taken ∧ taken.entered = true ∧
        (streaming 1 [0x00#8]).we.buffer = [] ++ [pixelAt 600 100 false]) ∧
      (Quiet (streaming 0 []) ∧ (streaming 0 []).we.buffer = []) ∧
      { taken with epoch := none }.epoch = none := by decide

theorem test_Router_premises :
    (Quiet (streaming 1 []) ∧ (streaming 1 []).we.waitingSpans ≠ []) ∧
      (Quiet (runBehind (pixelAt 600 100 false) [localRun 3]) ∧
        (runBehind (pixelAt 600 100 false) [localRun 3]).we.waitingLocals ≠ []) ∧
      (∀ p ∈ [pixelAt 600 100 false, pixelAt 600 100 true], Quiet (routing p none 0)) ∧
      wall.owner 600 100 = some ⟨1, 528, 0, 512, 320⟩ ∧
      (Quiet (routing (pixelAt 600 100 false) (some (localRun 62)) 0) ∧ (localRun 62).pixels.length + 1 < 64 ∧
        (localRun 62).row + 0 = 100 ∧ (localRun 62).start + (localRun 62).pixels.length + 528 = 600) ∧
      (Quiet (routing (pixelAt 600 100 false) (some (localRun 63)) 0) ∧ 64 ≤ (localRun 63).pixels.length + 1) ∧
      (∀ p ∈ [pixelAt 600 101 false, pixelAt 600 101 true], Quiet (routing p (some (localRun 12)) 0)) ∧
      ¬(localRun 12).row + 0 = 101 :=
  ⟨by decide, by decide, by decide, by decide, by decide, by decide, by decide, by decide⟩

/-- A pixel that is discarded: of the gap, and of a tile whose station is no member; alone, and closing an open run. -/
theorem test_RouterDiscards_premises :
    (∀ run ∈ [none, some (localRun 12)], Quiet (routing (pixelAt 520 100 false) run 0) ∧ wall.owner 520 100 = none) ∧
      (Quiet (ofMembers 0x3#16 (routing (pixelAt 600 400 true) (some (localRun 12)) 0)) ∧
        wall.owner 600 400 = some ⟨3, 528, 340, 512, 320⟩ ∧ hasStation 0x3#16 3 = false) ∧
      ((routing (pixelAt 520 100 false) (some (spanFor 0)) 47).closeOpenRun.we.waitingSpans = [] ∧
        (routing (pixelAt 520 100 false) (some (spanFor 0)) 48).closeOpenRun.we.waitingSpans ≠ [] ∧
        Quiet (routing (pixelAt 520 100 false) (some (spanFor 0)) 48)) ∧
      (Quiet (runBehind (pixelAt 520 100 false) []) ∧
        (runBehind (pixelAt 520 100 false) []).closeOpenRun.we.waitingLocals ≠ []) := by decide

theorem test_Fill_premises :
    (Quiet member ∧ member.portReady = true ∧ lengthIs ⟨List.replicate 10 0x00#8, false⟩ (8 + member.format.bytes) = false) ∧
      lengthIs ⟨List.replicate 11 0x00#8, false⟩ (8 + member.format.bytes) = true ∧
      (Quiet filling ∧ filling.cu.phase = .building ∧ filling.we.job.isSome) ∧
      (member.cu.phase = .building ∧ member.we.job = none ∧ member.config = some config ∧ member.cu.record = some record ∧
        member.streamPathEmpty = true ∧ member.lc.outbound.length + 3 ≤ 48) ∧
      (Quiet (streaming 1 []) ∧ (streaming 1 []).streamPathEmpty = false) ∧
      (State.fillEntries wall 0xF#16 30#16 ⟨500, 300, 540, 350⟩ 0#24).length = 3 ∧
      48 < (routing (pixelAt 600 100 false) none 46).lc.outbound.length + 3 := by decide

theorem test_TileClip_premises :
    (1 ≤ (512 : Nat) ∧ 1 ≤ (320 : Nat) ∧ 500 ≤ 540 ∧ 300 ≤ 350) ∧
      (⟨1, 528, 0, 512, 320⟩ : Tile).clip ⟨500, 300, 540, 350⟩ = some ⟨0, 300, 12, 319⟩ ∧
      (⟨1, 528, 0, 512, 320⟩ : Tile).clip ⟨500, 320, 540, 350⟩ = none := by decide

/-! ## Premises met: the Commit Unit, the Membership Unit, the Timing Unit -/

/-- What the vertical start found due replaced. -/
def finding (s : State) (h : Handed) : State := { s with handed := h }

/-- A station that left the wall. -/
def gone (state : StationState) : State := { listener with mu := { Membership.reset state with cause := .dropped } }

/-- LISTEN at listen count `n`, with or without a bank clear at row `r`. -/
def listening (n : Nat) (clear : Option BankClear) : State :=
  { listener with mu := { listener.mu with listenCount := n }, fs := { listener.fs with clear := clear } }

/-- A MEMBER that follows station 0, silent for `n` vertical starts, LOCKED. -/
def following (n : Nat) : State := { member with tu := { member.tu with source := some 0, silent := n, lock := .locked } }

/-- The generator replaced. -/
def generating (g : Generator) (prs : Option Nat) : State :=
  { member with tu := { member.tu with generator := some g }, lp := { member.lp with prs := prs } }

theorem test_Present_premises :
    (Quiet member ∧ member.portReady = true ∧ member.cu.phase = .building) ∧
      (Quiet holding ∧ holding.portReady = true ∧ holding.cu.phase ≠ .building) ∧
      (Quiet listener ∧ listener.cu.phase = .absent) := by decide

theorem test_Ready_premises :
    ((inPhase member .closing).Unraised ∧ (inPhase member .closing).cu.record = some record ∧
        (inPhase member .closing).cu.phase = .closing ∧ (inPhase member .closing).streamPathEmpty = true ∧
        (inPhase member .closing).we.job = none ∧ (inPhase member .closing).lc.outbound = [] ∧
        (inPhase member .closing).fs.carry = [] ∧ (inPhase member .closing).lc.slots.ready = none) ∧
      (member.Unraised ∧ ¬member.cu.phase = .closing) ∧
      ((finding (inPhase member .waiting) { Handed.clear with readyWait := true }).Unraised ∧
        setMinus record.required record.ready ≠ 0#16 ∧
        setMinus { record with ready := 0xF#16 }.required { record with ready := 0xF#16 }.ready = 0#16) := by decide

theorem test_Flip_premises :
    (finding holding { Handed.clear with flip := true }).Unraised ∧ pendingRecord.pendingFlip = some ⟨29#16, 5003#32, false⟩ ∧
      holding.tu.generator = some active ∧ active.lastVertical = some 100000 ∧ holding.tu.count ≠ 5003#32 ∧
      ({ holding with tu := { holding.tu with count := 5003#32 } } : State).tu.count = 5003#32 ∧
      (finding holding { Handed.clear with flipPassed := true }).handed.flipPassed = true := by decide

theorem test_LeaveAndJoin_premises :
    (Quiet member ∧ member.portReady = true ∧ member.mu.state = .member) ∧
      (∀ x ∈ [StationState.evicted, .detached], Quiet (gone x) ∧ (gone x).portReady = true ∧ (gone x).mu.state = x) ∧
      (Quiet listener ∧ listener.mu.state ≠ .member ∧ listener.mu.state ≠ .evicted ∧ listener.mu.state ≠ .detached) := by
  decide

theorem test_Joining_premises :
    ((listening 4 none).Unraised ∧ (listening 4 none).mu.state = .listen ∧ (listening 4 none).mu.listenCount = 4 ∧
        (listening 4 none).fs.clear = none) ∧
      ((listening 3 none).Unraised ∧ (listening 3 none).mu.listenCount ≠ 4) ∧
      ((listening 4 (some ⟨0, 319⟩)).Unraised ∧ (listening 4 (some ⟨0, 319⟩)).fs.clear ≠ none) := by decide

theorem test_Losses_premises :
    (finding (following 3) { Handed.clear with lockLoss := true }).Unraised ∧ (following 3).tu.lock ≠ .free ∧
      (finding (following 3) { Handed.clear with beaconLoss := true }).Unraised ∧ (following 3).tu.source = some 0 ∧
      hasStation (following 3).mu.members 0 = true ∧ (0 : Station) ≠ (following 3).self ∧
      3 + 2 * ((List.finRange 16).filter
        (fun y => hasStation (following 3).mu.members y ∧ y ≠ 0 ∧ y < (following 3).self)).length ≤ (following 3).tu.silent := by
  decide

theorem test_VerticalStart_premises :
    Quiet (following 2) ∧ (following 2).config = some config ∧ (following 2).tu.generator = some active ∧
      active.activeSince = some 164000 ∧
      (following 2).now + 66399 < 164000 + config.map.ownTile.height * config.lineTime ∧
      164000 + config.map.ownTile.height * config.lineTime ≤ (following 2).now + 66400 := by decide

theorem test_FlipTest_premises :
    holding.pendingFlip = some ⟨29#16, 5003#32, false⟩ ∧
      (∀ x ∈ [StationState.listen, .joining],
        ({ listener with mu := { listener.mu with state := x }, cu := holding.cu } : State).pendingFlip =
          some ⟨29#16, 5003#32, false⟩) ∧ member.pendingFlip = none := by decide

/-- The panel output: stopped; in line 1 of the blank; in row 112, in its HSYNC, in its pixels and between. -/
theorem test_Panel_premises :
    (State.reset.config = none ∧ State.reset.tu.generator = none) ∧
      (blanking.activeSince = none ∧ 1 < config.blank ∧ blanking.blankStart + 1 * config.lineTime ≤ 100400 ∧
        100400 < blanking.blankStart + (1 + 1) * config.lineTime) ∧
      (active.activeSince = some 164000 ∧ 112 < config.map.ownTile.height ∧ 164000 + 112 * config.lineTime ≤ member.now ∧
        member.now < 164000 + (112 + 1) * config.lineTime) ∧
      (member.panelPins 0).de = false ∧ (({ member with now := 199843 } : State).panelPins 7).hsync = true ∧
      (({ member with now := 199850 } : State).panelPins 0).de = true ∧
      (({ member with now := 199849 } : State).panelPins 7).de = false ∧
      (({ generating blanking none with now := 100400 } : State).panelPins 0).vsync = true := by decide

theorem test_BlankEndAndPrs_premises :
    Quiet (generating blanking (some 200320)) ∧ (generating blanking none).tu.generator = some blanking ∧
      blanking.activeSince = none ∧
      max ((blanking.blankStart : Int) + config.lineTime)
        (blanking.blankStart + config.blank * config.lineTime + blanking.correction.getD 0) = 164000 ∧
      (164000 : Int) ≤ (200000 + 0 : Nat) ∧ (generating blanking (some 200320)).lp.prs = some 200320 ∧
      200320 ≤ (generating blanking none).now + 320 ∧ (generating blanking none).now + 319 < 200320 ∧
      Quiet ({ generating blanking none with now := 163999 } : State) := by decide

theorem test_Phase_premises :
    (0 < 166400 ∧ -(166400 : Int) < 83200 ∧ (83200 : Int) < 166400) ∧ phaseError 83200 166400 = (83200, 0) ∧
      phaseError 83201 166400 = (-83199, -1) ∧ phaseError (-83200) 166400 = (83200, 1) ∧
      phaseError (-83199) 166400 = (-83199, 0) ∧ lockAndCorrection 640 320 = (.locked, 640) ∧
      lockAndCorrection 641 320 = (.acquiring, 641) ∧ lockAndCorrection (-641) 320 = (.acquiring, -641) ∧
      lockAndCorrection (-2561) 320 = (.acquiring, -2560) := by decide

/-! ## Premises met: the Wall Link -/

/-- A frame of another station on the wire. -/
def hearing (s : State) : State := onLink s .inFrame

/-- An own attempt on the wire. -/
def sending (s : State) (a : Attempt) : State := { s with lc := { s.lc with view := .inFrame, flight := some a } }

/-- The control slots replaced. -/
def slotted (s : State) (v : Slots) : State := { s with lc := { s.lc with slots := v } }

/-- A completing frame's stamp and lead. -/
def completing : Completing := ⟨5000#32, 2⟩

/-- A JOIN with the wall's digest, and one with another. -/
def joinBody (digest : Digest) : JoinBody := ⟨completing, digest⟩

/-- A READY of the open epoch. -/
def readyBody : ReadyBody := ⟨completing, 30#16⟩

/-- A DROP. -/
def dropBody (m : StationSet) : DropBody := ⟨completing, 30#16, m⟩

/-- JOINING, with or without a member recorded. -/
def joiner (recorded : Bool) : State :=
  { listener with mu := { listener.mu with state := .joining, memberRecorded := recorded } }

/-- JOINING and synced, with a member table. -/
def syncedJoiner (m : StationSet) : State :=
  { joiner true with
    mu := { (joiner true).mu with synced := true, members := m },
    cu := { record := some { record with required := m }, phase := .absent, timer := 0 } }

/-- The latest start field seen `p` after the vertical start. -/
def seenStart (p : Nat) (s : State) : State := { s with tu := { s.tu with startPhase := some p } }

/-- Stations 0 to 3 in the table. -/
def listing (s : State) : State := { s with mu := { s.mu with members := 0xF#16 } }

/-- An unsynced MEMBER whose table is a set. -/
def unsynced (m : StationSet) : State :=
  { listener with mu := { listener.mu with state := .member, members := m, memberRecorded := true } }

/-- A beacon of station 0, with a member set. -/
def beaconOf (digest : Digest) (m : StationSet) : BeaconBody :=
  ⟨12345#32, 124, digest, m, 30#16, m, 0#16, some (29#16, 5003#32)⟩

/-- An attempt with the frame of a kind and body. -/
def attempt (item : Item) (k : FrameKind) (body : List Byte) : Attempt := ⟨item, makeFrame k 1 body⟩

/-- A slot's item at its `n`th attempt, held off to 201,000. -/
def retried (n : Nat) : Retry := ⟨n, some 201000⟩

/-- A SPAN to station 2. -/
def spanTo2 : OutEntry := ⟨2, 30#16, .span 0 0 [0x123456#24]⟩

/-- A SPAN to station 1, whose tile is the own one, and a FILL. -/
def paintTo (x : Nat) (e : Epoch) : PaintBody := ⟨x, e, .span 0 0 [0x123456#24]⟩
def fillTo (x : Nat) (e : Epoch) : PaintBody := ⟨x, e, .fill ⟨0, 0, 511, 319⟩ 0x123456#24⟩

/-- A MEMBER that holds `n` inbound entries of an epoch, the head being applied. -/
def receiving (n : Nat) (e : Epoch) : State :=
  { hearing member with
    fs := { member.fs with
      inbound := List.replicate n ⟨2, e, .span 0 0 [0#24], 0, false⟩,
      operation := some ⟨.inbound, 30#16, 0, 0, [0#24], .b, false⟩ } }

theorem test_LinkIdle_premises :
    Quiet listener ∧ (Quiet (hearing member) ∧ (hearing member).lc.view = .inFrame ∧ (hearing member).lc.flight = none) ∧
      (Quiet (sending member (attempt .leave .leave [])) ∧
        (sending member (attempt .leave .leave [])).lc.flight = some (attempt .leave .leave [])) ∧
      ∀ v ∈ [LinkView.outOfStep, .idle, .gap], Quiet (onLink member v) ∧ (onLink member v).lc.view ≠ .inFrame := by
  decide +kernel

theorem test_FrameStart_premises :
    (Quiet member ∧ member.lc.view = .idle ∧ member.config = some config ∧ member.tu.generator = some active ∧
        active.lastVertical = some 100000 ∧ member.mu.state = .member ∧ member.cu.record = some record) ∧
      (Quiet listener ∧ listener.mu.state ≠ .joining ∧ listener.mu.state ≠ .member) ∧
      (Quiet (slotted member { Slots.empty with beacon := true, leave := some Retry.fresh }) ∧
        (slotted member { Slots.empty with beacon := true, leave := some Retry.fresh }).eligibleItem = some .beacon) ∧
      (slotted member { Slots.empty with leave := some (retried 1), ready := some ⟨30#16, Retry.fresh⟩ }).eligibleItem =
        some .ready ∧
      ({ member with lc := { member.lc with outbound := [spanTo2] } } : State).eligibleItem = some (.outbound spanTo2) ∧
      member.eligibleItem = none := by
  decide

/-- A station without a record: the founder's JOIN, an unsynced member's LEAVE and SPAN. -/
theorem test_FrameStartWithoutRecord_premises :
    (Quiet (slotted (joiner false) { Slots.empty with join := some Retry.fresh }) ∧ (joiner false).cu.record = none ∧
        (slotted (joiner false) { Slots.empty with join := some Retry.fresh }).eligibleItem = some .join ∧
        (joiner false).config = some config ∧ (joiner false).tu.generator = some active) ∧
      (Quiet (slotted (unsynced 0xF#16) { Slots.empty with leave := some Retry.fresh }) ∧
        (slotted (unsynced 0xF#16) { Slots.empty with beacon := true, leave := some Retry.fresh }).eligibleItem =
          some .leave) ∧
      ({ unsynced 0xF#16 with lc := { Link.reset with view := .idle, outbound := [spanTo2] } } : State).eligibleItem =
        some (.outbound spanTo2) := by decide

theorem test_Holdoffs_premises :
    (Quiet (slotted member { Slots.empty with leave := some (retried 1) }) ∧
        (slotted member { Slots.empty with leave := some (retried 1) }).lc.slots.retry .leave = some (retried 1)) ∧
      ({ member with lc := { member.lc with addressees := member.lc.addressees.set 2 (retried 1) } } :
        State).lc.addressees[2] = retried 1 ∧
      201000 ≤ member.now + 1000 ∧ member.now + 999 < 201000 := by decide

theorem test_Spoiled_premises :
    ((hearing member).Receiving ∧ (hearing member).mu.state = .member ∧
        (hearing member).checkedBody .ready shortFrame.frame = none ∧
        (hearing member).unequalJoin .ready shortFrame.frame .member = false) ∧
      { shortFrame.frame with complement := 0x00#8 }.lengthFound = false ∧
      ((hearing (gone .evicted)).Receiving ∧ (hearing (gone .evicted)).mu.state = .evicted) ∧
      (hearing State.reset).Receiving ∧ (hearing State.reset).mu.state.mapless = true ∧
      ((sending member (attempt (.outbound spanTo2) .span [])).Sending (attempt (.outbound spanTo2) .span []) ∧
        firstDifference 0 (attempt (.outbound spanTo2) .span []).frame.bits (makeFrame .ready 9 []).bits = some (0, true)) := by
  decide +kernel

theorem test_JoinFrame_premises :
    ((hearing member).Receiving ∧ (hearing member).digest = some (joinBody 0xA74F#16).digest ∧ (3 : Station) ≠ member.self ∧
        hasStation member.mu.members 3 = true ∧ hasStation member.mu.members 9 = false) ∧
      ((hearing listener).Receiving ∧ hasStation listener.mu.members 3 = false ∧ listener.mu.memberRecorded = false) ∧
      ((hearing (joiner true)).Receiving ∧ (hearing (joiner true)).digest ≠ some (joinBody 0x1234#16).digest ∧
        (joiner true).mu.memberRecorded = true) ∧
      ((hearing (joiner false)).Receiving ∧ (joiner false).mu.memberRecorded = false) ∧
      (hearing (listing (joiner true))).Receiving :=
  ⟨by decide, by decide, by decide, by decide, by decide⟩

/-- A MEMBER that holds 48 entries, a waiting span and an open run, all for station 3. -/
def holdingFor3 : State :=
  { hearing member with
    we := { member.we with waitingSpans := [spanFor 3], openRun := some (spanFor 3) },
    lc := { member.lc with view := .inFrame, outbound := List.replicate 48 ⟨3, 30#16, .span 0 0 [0#24]⟩ } }

theorem test_LeaveFrame_premises :
    ((hearing member).Receiving ∧ hasStation member.mu.members 3 = true ∧ member.lc.outbound = [] ∧
        member.we.waitingSpans = [] ∧ member.we.openRun = none ∧ member.mu.synced = true) ∧
      (holdingFor3.Receiving ∧ holdingFor3.mu.synced = true ∧ hasStation holdingFor3.mu.members 3 = true ∧
        (holdingFor3.heldFor 3).length = 50) ∧
      ((hearing (unsynced 0xA#16)).Receiving ∧ (unsynced 0xA#16).mu.synced = false ∧
        hasStation (unsynced 0xA#16).mu.members 3 = true ∧
        setMinus (unsynced 0xA#16).mu.members (oneStation 3) = oneStation (unsynced 0xA#16).self) ∧
      ((hearing listener).Receiving ∧ hasStation listener.mu.members 3 = false) ∧
      ((hearing (listing (joiner true))).Receiving) :=
  ⟨by decide, by decide, by decide, by decide, by decide⟩

theorem test_ReadyFrame_premises :
    ((hearing member).Receiving ∧ (hearing member).cu.record = some record ∧ readyBody.epoch = record.collecting ∧
        hasStation record.required 3 = true ∧ hasStation record.ready 3 = false) ∧
      hasStation record.required 9 = false ∧
      (subsetOf record.required record.ready = false ∧ subsetOf { record with required := 0#16 }.required record.ready = true) := by
  decide

theorem test_DropFrame_premises :
    (hearing member).Receiving ∧ hasStation (dropBody 0x2#16).stations member.self = true ∧
      (hasStation (dropBody 0x10#16).stations member.self = false ∧ (dropBody 0x10#16).stations &&& member.mu.members = 0#16) ∧
      (hasStation (dropBody 0x18#16).stations member.self = false ∧
        (dropBody 0x18#16).stations &&& member.mu.members = 0x8#16 ∧ member.lp.events.length < 31) ∧
      (holdingFor3.Receiving ∧ holdingFor3.mu.synced = true ∧
        holdingFor3.goneRecords 0x8#16 = [EventRecord.spanLost 3 30#16 true]) ∧
      (hearing listener).Receiving ∧ (slotted member { Slots.empty with drop := some ⟨0x8#16, Retry.fresh⟩ }).lc.slots.drop =
        some ⟨0x8#16, Retry.fresh⟩ := by decide

theorem test_Addressee_premises :
    readSpan (some wall) 2 (paintTo 1 30#16).bytes = some (paintTo 1 30#16) ∧
      readFill (some wall) 2 (fillTo 1 31#16).bytes = some (fillTo 1 31#16) ∧
      readSpan (some wall) 2 (paintTo 3 30#16).bytes = some (paintTo 3 30#16) ∧
      ((hearing member).Receiving ∧ (hearing member).heldMap = some wall ∧ record.backEpoch = 30#16) ∧
      ((receiving 15 30#16).Receiving ∧ (receiving 15 30#16).fs.inbound.length < 16) ∧
      ((receiving 1 31#16).Receiving ∧ (receiving 1 31#16).fs.inbound.any (fun e => e.epoch == record.backEpoch + 1) = true) ∧
      ((receiving 16 30#16).Receiving ∧ 16 ≤ (receiving 16 30#16).fs.inbound.length) ∧
      ((hearing (unsynced 0xF#16)).Receiving ∧ (unsynced 0xF#16).cu.record = none) ∧
      (hearing listener).Receiving :=
  ⟨by decide +kernel, by decide +kernel, by decide +kernel, by decide, by decide, by decide, by decide, by decide, by decide⟩

/-- What the verdict slots saw of a MEMBER that held `n` inbound entries, its back-bank epoch 29 or 30 then. -/
def slotsSaw (n : Nat) (backEpoch : Epoch) : SlotView := ⟨.member, true, 0xF#16, some backEpoch, n⟩

/-- A frame on the wire whose slots have been decided. -/
def decided (v : SlotView) (s : State) : State := { s with lc := { s.lc with slotView := some v } }

theorem test_AddresseeAfterTheSlots_premises :
    (Quiet (decided (slotsSaw 15 29#16) (receiving 14 30#16)) ∧
        (decided (slotsSaw 15 29#16) (receiving 14 30#16)).lc.slotView = some (slotsSaw 15 29#16) ∧
        (slotsSaw 15 29#16).inbound < 16 ∧ (receiving 14 30#16).fs.inbound.length < 16) ∧
      (Quiet (decided (slotsSaw 16 30#16) (receiving 15 30#16)) ∧ ¬(slotsSaw 16 30#16).inbound < 16) ∧
      ((paintTo 1 30#16).addressee = member.self.val ∧ (paintTo 3 30#16).addressee ≠ member.self.val ∧
        record.backEpoch = 30#16 ∧ (hearing member).mu.state = .member ∧ (hearing member).cu.record = some record) ∧
      (∀ e ∈ (receiving 14 30#16).fs.inbound, e.epoch ≠ record.backEpoch + 1) := by decide

theorem test_OutboundAttempt_premises :
    ({ sending member (attempt (.outbound spanTo2) .span []) with
          lc := { (sending member (attempt (.outbound spanTo2) .span [])).lc with outbound := [spanTo2] } } :
        State).Sending (attempt (.outbound spanTo2) .span []) ∧
      (attempt (.outbound spanTo2) .span []).frame.kind = FrameKind.span.code ∧
      (attempt (.outbound spanTo2) .fill []).frame.kind = FrameKind.fill.code ∧ (retried 22).attempts + 1 < 24 ∧
      24 ≤ (retried 23).attempts + 1 := by decide +kernel

theorem test_OwnControl_premises :
    ((sending (slotted member { Slots.empty with leave := some (retried 23) }) (attempt .leave .leave [])).Sending
        (attempt .leave .leave [])) ∧
      ((sending (joiner false) (attempt .join .join [])).Sending (attempt .join .join [])) ∧
      ((sending (inPhase (slotted member { Slots.empty with ready := some ⟨30#16, Retry.fresh⟩ }) .closing)
          (attempt .ready .ready readyBody.bytes)).Sending (attempt .ready .ready readyBody.bytes) ∧
        (ownReadyBody (attempt .ready .ready readyBody.bytes).frame).epoch = record.collecting) ∧
      ((sending (slotted member { Slots.empty with drop := some ⟨0x8#16, Retry.fresh⟩ }) (attempt .drop .drop [])).Sending
        (attempt .drop .drop [])) ∧
      ((sending (slotted member { Slots.empty with beacon := true }) (attempt .beacon .beacon [])).Sending
        (attempt .beacon .beacon [])) ∧
      firstDifference 0 (attempt .ready .ready []).frame.bits (makeFrame .join 1 []).bits = some (8, true) := by
  decide +kernel

/-- A READY of station 9 with an empty body and a CRC field of 0, taken, written out from R17: start field, class 1, station 9,
kind, length, complement and CRC with a mark after every eighth bit, final mark, turnaround, slots, end mark. -/
theorem test_FrameLine :
    (({ cls := 1#2, station := 9#4, kind := 3#4, length := 0x00#8, complement := 0xFF#8, body := [], crc := 0x0000#16 } :
        WireFrame).line true false).map Bool.toNat =
      [0, 0, 1, 1, 0, 0, 1, 0, 0, 0, 1, 1, 0, 0, 0, 0, 0, 0, 0, 0, 0, 1, 1, 1, 1, 1, 1, 0, 1, 1, 0, 0, 0, 0, 0, 0, 0,
        0, 0, 0, 0, 0, 0, 0, 0, 0, 0, 0, 0, 1, 0, 1, 0] := by decide

/-- A station whose record holds R and Y. -/
def ofRecord (required ready : StationSet) (s : State) : State :=
  { s with cu := { s.cu with record := some { record with required := required, ready := ready } } }

/-- A station in CLOSING with READY(30) in its slot. -/
def closing : State := inPhase (slotted member { Slots.empty with ready := some ⟨30#16, Retry.fresh⟩ }) .closing

/-- The own READY(30). -/
def ownReadyAttempt : Attempt := attempt .ready .ready readyBody.bytes

/-- Phase, timer and collecting epoch after the own READY is delivered. -/
def afterOwnReady (s : State) : Option (Phase × Nat × Option Epoch) :=
  match exec (.readyFrame 0 ⟨ownReadyAttempt.frame, true, false⟩) (sending s ownReadyAttempt) with
  | .next t => some (t.cu.phase, t.cu.timer, t.cu.record.map Record.collecting)
  | .fault _ => none
  | .refused _ => none

/-- An own READY with self in Y already: in CLOSING it is WAITING, and with all of R in Y a commit follows (R94, R97); in BUILDING,
and with self not in R, it is ignored. -/
theorem test_OwnReadyInY :
    (∀ s ∈ [ofRecord 0xF#16 0x2#16 closing, ofRecord 0xF#16 0x2#16 (inPhase closing .building), ofRecord 0xD#16 0#16 closing],
        (sending s ownReadyAttempt).Sending ownReadyAttempt) ∧
      afterOwnReady (ofRecord 0xF#16 0x2#16 closing) = some (.waiting, 0, some 30#16) ∧
      afterOwnReady (ofRecord 0xF#16 0xF#16 closing) = some (.held, 0, some 31#16) ∧
      afterOwnReady (ofRecord 0xF#16 0x2#16 (inPhase closing .building)) = some (.building, 0, some 30#16) ∧
      afterOwnReady (ofRecord 0xD#16 0#16 closing) = some (.closing, 0, some 30#16) := by
  decide +kernel

/-- Own attempts delivered, and those unheard at their 24th attempt. -/
theorem test_OwnJoinAndDrop_premises :
    (∀ s ∈ [joiner false, joiner true, listing (joiner true), syncedJoiner 0xD#16, syncedJoiner 0xF#16],
        (sending (slotted s { Slots.empty with join := some (retried 23) }) (attempt .join .join [])).Sending
          (attempt .join .join [])) ∧
      ((joiner false).mu.memberRecorded = false ∧ (joiner true).mu.memberRecorded = true ∧
        withStation (joiner true).mu.members 1 = oneStation 1 ∧
        hasStation (listing (joiner true)).mu.members 1 = true ∧
        withStation (listing (joiner true)).mu.members 1 ≠ oneStation 1 ∧
        hasStation (syncedJoiner 0xD#16).mu.members 1 = false ∧ (syncedJoiner 0xF#16).mu.synced = true) ∧
      (∀ s ∈ [member, ofMembers 0x2#16 member, ofMembers 0xA#16 member],
        (sending (slotted s { Slots.empty with drop := some ⟨0x8#16, retried 23⟩ })
          (attempt .drop .drop (dropBody 0x8#16).bytes)).Sending (attempt .drop .drop (dropBody 0x8#16).bytes)) ∧
      (ownDropBody (attempt .drop .drop (dropBody 0x8#16).bytes).frame = dropBody 0x8#16 ∧
        (dropBody 0x8#16).stations &&& 0xF#16 = 0x8#16 ∧ (dropBody 0x8#16).stations &&& 0x7#16 = 0#16 ∧
        (dropBody 0x8#16).stations &&& 0x2#16 = 0#16 ∧ setMinus 0xA#16 0x8#16 = oneStation 1) := by decide +kernel

theorem test_OwnBeacon_premises :
    (sending (seenStart 124 member) (attempt .beacon .beacon (beaconOf 0xA74F#16 0xF#16).bytes)).Sending
        (attempt .beacon .beacon (beaconOf 0xA74F#16 0xF#16).bytes) ∧
      readBeacon 1 (attempt .beacon .beacon (beaconOf 0xA74F#16 0xF#16).bytes).frame.body = some (beaconOf 0xA74F#16 0xF#16) ∧
      (seenStart 124 member).tu.startPhase = some 124 ∧ (beaconOf 0xA74F#16 0xF#16).launchDelay = 124 := by
  decide +kernel

theorem test_Newcomer_premises :
    (hearing { listener with tu := { listener.tu with startPhase := some 9100 } }).Receiving ∧
      listener.cu.record = none ∧ listener.fs.inbound = [] ∧
      readBeacon 0 (beaconOf 0xA74F#16 0xF#16).bytes = some (beaconOf 0xA74F#16 0xF#16) ∧
      (beaconOf 0xA74F#16 0xF#16).digest = config.map.digest ∧
      (hearing { generating blanking none with mu := (joiner false).mu, cu := Commit.reset }).Receiving := by decide +kernel

theorem test_BeaconTests_premises :
    ((hearing member).Receiving ∧ hasStation member.mu.members 0 = true ∧
        hasStation (beaconOf 0xA74F#16 0xF#16).members 1 = true ∧ hasStation (beaconOf 0xA74F#16 0x9#16).members 1 = false ∧
        (beaconOf 0x1234#16 0xF#16).digest ≠ config.map.digest) ∧
      readBeacon 0 (beaconOf 0x1234#16 0x9#16).bytes = some (beaconOf 0x1234#16 0x9#16) ∧
      ((hearing (unsynced 0xA#16)).Receiving ∧ hasStation (unsynced 0xA#16).mu.members 0 = false ∧
        hasStation (unsynced 0xA#16).mu.foreign 0 = false) ∧
      (hearing (gone .detached)).Receiving ∧
      hasStation { (gone .conflict).mu with foreign := 0x1#16 }.foreign 0 = true ∧
      ((hearing (seenStart 9100 member)).Receiving ∧ (seenStart 9100 member).tu.generator = some active ∧
        (beaconOf 0xA74F#16 0xF#16).digest = config.map.digest ∧
        readBeacon 0 (beaconOf 0xA74F#16 0xF#16).bytes = some (beaconOf 0xA74F#16 0xF#16)) := by decide +kernel

theorem test_AdoptedRecord_premises :
    pendingRecord.collecting = (beaconOf 0#16 0xF#16).collecting ∧
      { pendingRecord with collecting := 31#16 }.collecting ≠ (beaconOf 0#16 0xF#16).collecting ∧
      pendingRecord.last.map LastCommit.epoch = (beaconOf 0#16 0xF#16).last.map Prod.fst ∧
      { beaconOf 0#16 0xF#16 with last := none }.last = none ∧ record.last = none := by decide

/-! ## Premises met: the Frame Store, the invariants -/

/-- Carrying row 100 on demand before a write to it. -/
def carrying : State :=
  { writing with
    fs := { writing.fs with
      operation := some ⟨.stream, 30#16, 100, 0, List.replicate 12 0xFFFFFF#24, .b, true⟩, carry := [100], dirty := [] } }

/-- A local run requested, row 100 still to be carried, last served the stream requester. -/
def requesting (last : Requester) : State :=
  { member with
    we := { member.we with localRun := writing.we.localRun },
    fs := { member.fs with lastServed := last, carry := [100] } }

theorem test_BankClear_premises :
    (Quiet (listening 0 (some ⟨200000, 319⟩)) ∧ (listening 0 (some ⟨200000, 319⟩)).config = some config ∧
        200000 + (319 + 1) * config.lineTime ≤ (listening 0 none).now + 102400 ∧
        (listening 0 none).now + 102399 < 200000 + (319 + 1) * config.lineTime) ∧
      ((listening 0 (some ⟨200000, 320⟩)).Unraised ∧ (listening 0 (some ⟨200000, 319⟩)).Unraised) := by decide

theorem test_Grant_premises :
    (writing.Unraised ∧ writing.fs.operation.isSome) ∧
      (member.Unraised ∧ ∀ q ∈ [Requester.stream, .localFill, .inbound, .carry], member.holdsRequest q = false) ∧
      ((requesting .carry).Unraised ∧ (requesting .carry).fs.operation = none ∧
        (requesting .carry).nextRequester = some .stream) ∧
      (requesting .stream).nextRequester = some .carry ∧
      ((receiving 1 31#16).fs.inbound.head?.map InEntry.epoch = some (record.backEpoch + 1) ∧
        (receiving 1 31#16).cu.record = some record) := by decide

theorem test_OpEnd_premises :
    (Quiet writing ∧ writing.fs.operation.map writing.operationWrite = some (0, List.replicate 12 0xFFFFFF#24) ∧
        writing.we.waitingLocals = []) ∧
      (Quiet (runBehind (pixelAt 600 100 false) [localRun 3]) ∧
        (runBehind (pixelAt 600 100 false) [localRun 3]).we.waitingLocals = localRun 3 :: []) ∧
      (Quiet carrying ∧ carrying.fs.operation.map (fun o => ((carrying.operationWrite o).1,
        (carrying.operationWrite o).2.length)) = some (0, 512)) ∧
      (Quiet filling ∧ filling.fs.operation.map filling.operationWrite = some (0, List.replicate 4 0#24)) ∧
      (Quiet (receiving 2 30#16) ∧ (receiving 2 30#16).fs.operation.map (receiving 2 30#16).operationWrite = some (0, [0#24])) :=
  ⟨by decide +kernel, by decide, by decide +kernel, by decide +kernel, by decide +kernel⟩

theorem test_Invariants_premises :
    (∃ t, step member = .next t) ∧ (Memory.wf member.fs.bankA ∧ Memory.wf member.fs.bankB) ∧ member.fs.RowsAscending ∧
      member.WithinCapacity :=
  ⟨⟨_, rfl⟩, by decide, by decide, by decide⟩

theorem test_Standing_premises : member.Standing where
  map := by decide
  loader := by decide
  low := by decide
  record := by decide
  synced := by decide
  phase := by decide
  self := by decide
  nested := by intro r h; cases h; decide
  flight := by decide
  flip := by decide

theorem test_Bodies_premises :
    (hasStation (beaconOf 0#16 0xF#16).members 0 = true ∧ subsetOf (beaconOf 0#16 0xF#16).required 0xF#16 = true) ∧
      (1 ≤ completing.lead ∧ completing.lead ≤ 4) ∧ (dropBody 0x8#16).stations ≠ 0#16 ∧
      wall.tileFor 2 = some ⟨2, 0, 340, 512, 320⟩ ∧ 448 + (List.replicate 64 (0#24 : Pixel)).length ≤ 512 := by decide

end Sys2Proof.Tests
end

/-! PROOFS. The statements of chapter 9, the Local Port: what a transaction that only sets a result answers, then NOP and
INT. -/

namespace Sys2Proof.Machine

/-! ## A transaction whose command only sets a result -/

/-- The state after a transaction of one command that has no effect but its result: `dt` has passed, the last result was the
MISO byte (R174), and the result is `r` (R175). -/
def State.answered (s : State) (dt : Nat) (r : Result) : State := ((s.advance dt).openPort .idle []).setResult r

theorem answered_eq (s : State) (dt : Nat) (r : Result) :
    s.answered dt r =
      { s with now := s.now + dt, lp := { s.lp with miso := [s.lp.lastResult.code], transaction := .idle, lastResult := r } } :=
  rfl

/-- Nothing that `Quiet` asks about reads the clock, the MISO bytes, the transaction or the last result. -/
theorem quiet_answered (s : State) (dt : Nat) (r : Result) (h : Quiet s) : Quiet (s.answered dt r) := h

/-- The port is idle again, so a port that was out of reset can begin the next transaction. -/
theorem portReady_answered (s : State) (dt : Nat) (r : Result) (h : s.portReady = true) :
    (s.answered dt r).portReady = true := by
  obtain ⟨hreset, -⟩ := Bool.and_eq_true_iff.mp h
  exact Bool.and_eq_true_iff.mpr ⟨hreset, rfl⟩

/-- Time alone does not make a port busy. -/
theorem portReady_advance (s : State) (dt : Nat) : (s.advance dt).portReady = s.portReady := rfl

/-- A port that can begin a transaction judges its command on the state that the transaction opened. -/
theorem judged_of_portReady (judge : State → Judged) (s : State) (h : s.portReady = true) :
    s.judged judge = (judge (s.openPort .idle [])).1.setResult (judge (s.openPort .idle [])).2 :=
  if_pos h

/-- A command whose judgement changes nothing and finds `r` answers that result and no more. -/
theorem event_judged_of_result (dt : Nat) (judge : State → Judged) (s : State) (r : Result) (hq : Quiet s)
    (hp : s.portReady = true) (hj : ∀ u, judge u = (u, r)) :
    event dt (State.judged judge) s = .next (s.answered dt r) := by
  have hbody : (s.advance dt).judged judge = s.answered dt r := by
    rw [judged_of_portReady judge _ ((portReady_advance s dt).trans hp), hj]
    rfl
  exact event_of_effect dt _ s _ hq hbody (unraised_of_quiet _ (quiet_answered s dt r hq))

/-! ## NOP (R179) -/

/-- A transaction holds its command byte alone exactly when no byte, whole or partial, follows it (R176). -/
theorem lengthIs_zero_iff (t : Tail) : lengthIs t 0 = true ↔ t = ⟨[], false⟩ := by
  obtain ⟨bytes, partialByte⟩ := t
  simp [lengthIs]

/-- The result of a NOP. -/
def nopResult (t : Tail) : Result := if t = ⟨[], false⟩ then .ok else .badLength

/-- NOP's judgement is its length test alone. -/
theorem exactLength_nop (t : Tail) (s : State) : exactLength t 0 s (fun u => (u, .ok)) = (s, nopResult t) := by
  unfold exactLength nopResult
  by_cases ht : t = ⟨[], false⟩
  · rw [if_pos ((lengthIs_zero_iff t).mpr ht), if_pos ht]
  · rw [if_neg (fun hl => ht ((lengthIs_zero_iff t).mp hl)), if_neg ht]

/-- NOP answers its result and changes nothing else. -/
theorem exec_nop (dt : Nat) (tail : Tail) (s : State) (hq : Quiet s) (hp : s.portReady = true) :
    exec (.nop dt tail) s = .next (s.answered dt (nopResult tail)) := by
  have hjudged := event_judged_of_result dt (fun u => exactLength tail 0 u (fun u => (u, .ok))) s (nopResult tail) hq hp
    (exactLength_nop tail)
  rw [← hjudged]
  exact exec_eq (.nop dt tail) s

/-- Settles O7: NOP is a transaction that only sets a result, and it leaves a state from which the next NOP can begin, whose
first MISO byte is then the OK of the first. -/
theorem nopReturnsThePreviousResult : Obligations.NopReturnsThePreviousResult := by
  intro dt tail s hq hp
  constructor
  · rw [exec_nop dt tail s hq hp, answered_eq, nopResult]
  · intro dt' t hfirst
    rw [exec_nop dt ⟨[], false⟩ s hq hp] at hfirst
    injection hfirst with hfirst
    subst hfirst
    have hsecond := exec_nop dt' ⟨[], false⟩ _ (quiet_answered s dt .ok hq) (portReady_answered s dt .ok hp)
    rwa [answered_eq (s.answered dt .ok)] at hsecond

/-! ## INT (R184) -/

/-- Settles O14: the line is read off the event queue. -/
theorem intFollowsTheEventQueue : Obligations.IntFollowsTheEventQueue := by
  intro s
  rw [State.intLine, Bool.not_eq_true', List.isEmpty_eq_false_iff]

end Sys2Proof.Machine

/-! PROOFS. The statement of chapter 10, Start-up and configuration: CONFIG_END. The rules before it, a transaction judged on the
state that it opened and the two outcomes of a load, serve other commands of the Local Port and the EEPROM alike. -/

namespace Sys2Proof.Machine

/-! ## A transaction judged on the state that it opened -/

/-- The state on which a command is judged at the rise of CS_N: `dt` has passed and the last result is the MISO byte (R174). -/
def State.opened (s : State) (dt : Nat) : State := (s.advance dt).openPort .idle []

/-- Once it has its result, the opened transaction is answered. -/
theorem setResult_opened (s : State) (dt : Nat) (r : Result) : (s.opened dt).setResult r = s.answered dt r := rfl

/-- Opening a transaction raises nothing. -/
theorem unraised_opened (s : State) (dt : Nat) (h : Quiet s) : (s.opened dt).Unraised := unraised_of_quiet s h

/-- A result is nothing that the end of an event reads. -/
theorem unraised_setResult (s : State) (r : Result) (h : s.Unraised) : (s.setResult r).Unraised := h

/-- A port that can begin a transaction judges the command once `dt` has passed and the transaction is open. -/
theorem judged_advance (judge : State → Judged) (s : State) (dt : Nat) (h : s.portReady = true) :
    (s.advance dt).judged judge = (judge (s.opened dt)).1.setResult (judge (s.opened dt)).2 :=
  judged_of_portReady judge _ ((portReady_advance s dt).trans h)

/-- A command whose judgement raises nothing answers the state judged with its result. -/
theorem event_judged_of_unraised (dt : Nat) (judge : State → Judged) (s t : State) (r : Result) (hq : Quiet s)
    (hp : s.portReady = true) (hj : judge (s.opened dt) = (t, r)) (ht : t.Unraised) :
    event dt (State.judged judge) s = .next (t.setResult r) := by
  refine event_of_effect dt _ s _ hq ?_ (unraised_setResult t r ht)
  rw [judged_advance judge s dt hp, hj]

/-- A command whose judgement raises one record answers the state judged with its result, and then the record enters the queue. -/
theorem event_judged_of_raise (dt : Nat) (judge : State → Judged) (s t : State) (e : EventRecord) (r : Result) (hq : Quiet s)
    (hp : s.portReady = true) (hj : judge (s.opened dt) = (t.raise e, r)) (ht : t.Unraised) :
    event dt (State.judged judge) s =
      .next (((t.setResult r).setLp ((t.setResult r).lp.enqueue e)).setFree (t.free + 1)) := by
  refine event_of_effect_raise dt _ s (t.setResult r) e hq ?_ (unraised_setResult t r ht)
  rw [judged_advance judge s dt hp, hj]
  rfl

/-! ## The length test (R176, R177) -/

theorem lengthIs_iff (t : Tail) (n : Nat) : lengthIs t n = true ↔ t.bytes.length = n ∧ t.partialByte = false := by
  simp [lengthIs]

theorem exactLength_of_length (t : Tail) (n : Nat) (s : State) (judge : State → Judged)
    (h : t.bytes.length = n ∧ t.partialByte = false) : exactLength t n s judge = judge s :=
  if_pos ((lengthIs_iff t n).mpr h)

theorem exactLength_of_badLength (t : Tail) (n : Nat) (s : State) (judge : State → Judged)
    (h : ¬(t.bytes.length = n ∧ t.partialByte = false)) : exactLength t n s judge = (s, .badLength) :=
  if_neg (fun hl => h ((lengthIs_iff t n).mp hl))

/-! ## The two outcomes of a load (R201, R202) -/

/-- The state after a failed validation, before its record enters the queue (R201). -/
def State.atFault (s : State) (r : FaultReason) : State :=
  { s with mu := { Membership.reset .fault with cause := .fault r }, sl := s.sl.done }

theorem failLoad_eq (s : State) (r : FaultReason) :
    s.failLoad r = (s.atFault r).raise (EventRecord.configFault r) := rfl

/-- A station in FAULT founds nothing. -/
theorem unraised_atFault (s : State) (r : FaultReason) (h : s.Unraised) : (s.atFault r).Unraised := by
  obtain ⟨hraised, hafter, -⟩ := h
  exact ⟨hraised, hafter, rfl⟩

/-- The link after a load: what was to be sent is gone, and a frame on the wire is waited out (R16, R41, R167). -/
theorem leaveFrame_emptied (l : Link) :
    l.emptied.leaveFrame =
      { l with view := if l.view = .inFrame then .gap else l.view, flight := none, slots := Slots.empty, outbound := [],
               addressees := freshAddressees } := by
  have hview : l.emptied.view = l.view := rfl
  unfold Link.leaveFrame
  rw [hview]
  by_cases h : l.view = .inFrame
  · rw [if_pos h, if_pos h]
    rfl
  · rw [if_neg h, if_neg h]
    rfl

/-- A successful load, field by field (R45, R121, R138, R202). -/
theorem load_eq (s : State) (c : Configuration) :
    s.load c =
      { s with
        config := some c, mu := Membership.reset .listen, lc := s.lc.emptied.leaveFrame,
        tu := { s.tu with generator := some { blankStart := s.now, correction := none, activeSince := none,
                                              lastVertical := none },
                          source := none, silent := 0 },
        cu := Commit.reset,
        fs := { s.fs with dirty := [], carry := [], inbound := [], showState := .background,
                          clear := some { begun := s.now, row := 0 } },
        we := s.we.home c.map.ownTile, sl := s.sl.done, handed := Handed.clear } := rfl

/-- A load neither reads nor sets the last result. -/
theorem setResult_load (s : State) (c : Configuration) (r : Result) : (s.load c).setResult r = (s.setResult r).load c := by
  rw [load_eq, load_eq]
  rfl

/-- A failed validation neither reads nor sets the last result. -/
theorem setResult_atFault (s : State) (f : FaultReason) (r : Result) :
    (s.atFault f).setResult r = (s.setResult r).atFault f := rfl

/-- A station in LISTEN founds nothing, and a load raises nothing. -/
theorem unraised_load (s : State) (c : Configuration) (h : s.Unraised) : (s.load c).Unraised := by
  obtain ⟨hraised, hafter, -⟩ := h
  rw [load_eq]
  exact ⟨hraised, hafter, rfl⟩

/-! ## CONFIG_END (R205) -/

theorem awaitsRecords_iff (s : State) : s.awaitsRecords = true ↔ s.mu.state = .awaitConfig ∨ s.mu.state = .fault := by
  simp [State.awaitsRecords]

/-- Opening a transaction leaves the station state as it was. -/
theorem awaitsRecords_opened (s : State) (dt : Nat) : (s.opened dt).awaitsRecords = s.awaitsRecords := rfl

/-- What the Start-up Loader finds of a host image and the two CRC bytes: NO_END, or the outcome of the validation (R205). -/
def hostVerdict (records : List ConfigRecord) (crc : List Byte) : Except FaultReason Configuration :=
  if hostImageEnds records then validate records (hostImageBytes records) (BitVec.ofNat 16 (bytesToNat crc))
  else .error .noEnd

theorem hostVerdict_of_ends (records : List ConfigRecord) (crc : List Byte) (h : hostImageEnds records = true) :
    hostVerdict records crc = validate records (hostImageBytes records) (BitVec.ofNat 16 (bytesToNat crc)) := if_pos h

theorem hostVerdict_of_noEnd (records : List ConfigRecord) (crc : List Byte) (h : hostImageEnds records = false) :
    hostVerdict records crc = .error .noEnd := if_neg (Bool.eq_false_iff.mp h)

/-- In a state that takes no records CONFIG_END is refused. -/
theorem judgeConfigEnd_of_wrongState (crc : List Byte) (s : State) (h : s.awaitsRecords = false) :
    s.judgeConfigEnd crc = (s, .wrongState) := if_neg (Bool.eq_false_iff.mp h)

/-- In AWAIT_CONFIG and FAULT CONFIG_END carries out the verdict on the host image. -/
theorem judgeConfigEnd_of_awaits (crc : List Byte) (s : State) (h : s.awaitsRecords = true) :
    (∀ r, hostVerdict s.sl.hostImage crc = .error r → s.judgeConfigEnd crc = (s.failLoad r, .invalid)) ∧
      ∀ c, hostVerdict s.sl.hostImage crc = .ok c → s.judgeConfigEnd crc = (s.load c, .ok) := by
  unfold State.judgeConfigEnd
  rw [if_pos h]
  cases hends : hostImageEnds s.sl.hostImage with
  | true =>
    rw [hostVerdict_of_ends _ _ hends, if_pos rfl]
    exact ⟨fun r hr => by rw [hr], fun c hc => by rw [hc]⟩
  | false =>
    rw [hostVerdict_of_noEnd _ _ hends]
    exact ⟨fun r hr => by cases hr; rfl, fun c hc => by cases hc⟩

/-- CONFIG_END's judgement: the length test comes first. -/
def configEndJudge (tail : Tail) (s : State) : Judged := exactLength tail 2 s (State.judgeConfigEnd tail.bytes)

theorem exec_configEnd_eq (dt : Nat) (tail : Tail) (s : State) :
    exec (.configEnd dt tail) s = event dt (State.judged (configEndJudge tail)) s := exec_eq (.configEnd dt tail) s

theorem configEndJudge_of_two (crc : List Byte) (s : State) (h : crc.length = 2) :
    configEndJudge ⟨crc, false⟩ s = s.judgeConfigEnd crc := exactLength_of_length _ _ _ _ ⟨h, rfl⟩

/-- A CONFIG_END that is refused answers its result and changes nothing else. -/
theorem exec_configEnd_of_refused (dt : Nat) (tail : Tail) (s : State) (r : Result) (hq : Quiet s) (hp : s.portReady = true)
    (hj : configEndJudge tail (s.opened dt) = (s.opened dt, r)) :
    exec (.configEnd dt tail) s = .next (s.answered dt r) := by
  rw [exec_configEnd_eq, event_judged_of_unraised dt _ s _ r hq hp hj (unraised_opened s dt hq), setResult_opened]

/-- A CONFIG_END whose image has the fault `r` enters FAULT with that reason and raises CONFIG_FAULT (R201). -/
theorem exec_configEnd_of_error (dt : Nat) (crc : List Byte) (s : State) (r : FaultReason) (hq : Quiet s)
    (hp : s.portReady = true) (hlen : crc.length = 2) (hawait : s.awaitsRecords = true)
    (hr : hostVerdict s.sl.hostImage crc = .error r) :
    exec (.configEnd dt ⟨crc, false⟩) s =
      .next ((((s.answered dt .invalid).atFault r).setLp
        ((s.answered dt .invalid).lp.enqueue (EventRecord.configFault r))).setFree (s.free + 1)) := by
  have hj : configEndJudge ⟨crc, false⟩ (s.opened dt) =
      (((s.opened dt).atFault r).raise (EventRecord.configFault r), .invalid) := by
    rw [configEndJudge_of_two crc _ hlen,
      (judgeConfigEnd_of_awaits crc (s.opened dt) ((awaitsRecords_opened s dt).trans hawait)).1 r hr, failLoad_eq]
  rw [exec_configEnd_eq,
    event_judged_of_raise dt _ s _ _ .invalid hq hp hj (unraised_atFault _ r (unraised_opened s dt hq)),
    setResult_atFault, setResult_opened]
  rfl

/-- A CONFIG_END whose image is valid loads it (R202). -/
theorem exec_configEnd_of_ok (dt : Nat) (crc : List Byte) (s : State) (c : Configuration) (hq : Quiet s)
    (hp : s.portReady = true) (hlen : crc.length = 2) (hawait : s.awaitsRecords = true)
    (hc : hostVerdict s.sl.hostImage crc = .ok c) :
    exec (.configEnd dt ⟨crc, false⟩) s = .next ((s.answered dt .ok).load c) := by
  have hj : configEndJudge ⟨crc, false⟩ (s.opened dt) = ((s.opened dt).load c, .ok) := by
    rw [configEndJudge_of_two crc _ hlen,
      (judgeConfigEnd_of_awaits crc (s.opened dt) ((awaitsRecords_opened s dt).trans hawait)).2 c hc]
  rw [exec_configEnd_eq,
    event_judged_of_unraised dt _ s _ .ok hq hp hj (unraised_load _ c (unraised_opened s dt hq)),
    setResult_load, setResult_opened]

/-- Settles O19: by the length test, the station state, and the verdict on the host image. -/
theorem configEndValidatesTheHostImage : Obligations.ConfigEndValidatesTheHostImage := by
  refine ⟨fun dt tail s hq hp hlen => ?badLength, fun dt crc s hq hp hlen =>
    ⟨fun hstate => ?wrongState, fun hstate => ⟨fun r hr => ?invalid, fun c hends hc => ?loaded⟩⟩⟩
  case badLength =>
    exact exec_configEnd_of_refused dt tail s .badLength hq hp (exactLength_of_badLength tail 2 _ _ hlen)
  case wrongState =>
    have hawait : s.awaitsRecords = false :=
      Bool.eq_false_iff.mpr fun h => ((awaitsRecords_iff s).mp h).elim hstate.1 hstate.2
    refine exec_configEnd_of_refused dt _ s .wrongState hq hp ?_
    rw [configEndJudge_of_two crc _ hlen,
      judgeConfigEnd_of_wrongState crc (s.opened dt) ((awaitsRecords_opened s dt).trans hawait)]
  case invalid =>
    have hverdict : hostVerdict s.sl.hostImage crc = .error r := by
      obtain ⟨hends, rfl⟩ | ⟨hends, hr⟩ := hr
      · exact hostVerdict_of_noEnd _ _ hends
      · rw [hostVerdict_of_ends _ _ hends, hr]
    exact exec_configEnd_of_error dt crc s r hq hp hlen ((awaitsRecords_iff s).mpr hstate) hverdict
  case loaded =>
    have hverdict : hostVerdict s.sl.hostImage crc = .ok c := by rw [hostVerdict_of_ends _ _ hends, hc]
    have hclear : s.handed = Handed.clear := hq.1
    rw [exec_configEnd_of_ok dt crc s c hq hp hlen ((awaitsRecords_iff s).mpr hstate) hverdict, load_eq,
      leaveFrame_emptied, ← hclear]
    rfl

end Sys2Proof.Machine

/-! PROOFS. What holds of every state: every step keeps the memories canonical, the row sets ascending, and every queue, buffer
and count within its bound. The row sets and the bounds are kept independently of each other, so one predicate says both, each
under its own premise, and is followed through the operations once. -/

namespace Sys2Proof.Machine

/-! ## The row sets and the bounds -/

/-- The row sets ascend, if `R`, and the inbound queue is within its bound, if `C`. -/
structure FrameStore.Kept (R C : Prop) (f : FrameStore) : Prop where
  rows : R → f.RowsAscending
  inbound : C → f.inbound.length ≤ 16

/-- The pixel input buffer and the assembler are within their bounds, if `C`. -/
structure Window.Kept (C : Prop) (w : Window) : Prop where
  buffer : C → w.buffer.length ≤ 32
  assembler : C → w.assembler.length ≤ 2

/-- The row sets ascend, if `R`, and every queue, buffer and count is within its bound, if `C`. -/
structure State.Kept (R C : Prop) (s : State) : Prop where
  fs : s.fs.Kept R C
  we : s.we.Kept C
  lc : C → s.lc.Fits
  lp : C → s.lp.events.length ≤ 32
  mu : C → s.mu.listenCount ≤ 4
  cu : C → s.cu.timer ≤ 60
  tu : C → s.tu.silent ≤ 255

theorem kept_iff (R C : Prop) (s : State) :
    s.Kept R C ↔ (R → s.fs.RowsAscending) ∧ (C → s.WithinCapacity) := by
  constructor
  · rintro ⟨⟨hr, hi⟩, ⟨hb, ha⟩, hl, hp, hm, hc, ht⟩
    exact ⟨hr, fun h => ⟨hl h, hi h, hp h, hb h, ha h, hm h, hc h, ht h⟩⟩
  · rintro ⟨hr, hc⟩
    refine ⟨⟨hr, fun h => ?_⟩, ⟨fun h => ?_, fun h => ?_⟩, fun h => ?_, fun h => ?_, fun h => ?_, fun h => ?_, fun h => ?_⟩ <;>
      obtain ⟨ho, hi, he, hb, ha, hl, ht, hs⟩ := hc h
    · exact hi
    · exact hb
    · exact ha
    · exact ho
    · exact he
    · exact hl
    · exact ht
    · exact hs

section
variable {R C : Prop} {s : State}

/-! ## One rule for each update of the state -/

theorem State.Kept.setNow (h : s.Kept R C) (v : Nat) : (s.setNow v).Kept R C := ⟨h.fs, h.we, h.lc, h.lp, h.mu, h.cu, h.tu⟩
theorem State.Kept.setConfig (h : s.Kept R C) (v : Option Configuration) : (s.setConfig v).Kept R C :=
  ⟨h.fs, h.we, h.lc, h.lp, h.mu, h.cu, h.tu⟩
theorem State.Kept.setSl (h : s.Kept R C) (v : StartUp) : (s.setSl v).Kept R C := ⟨h.fs, h.we, h.lc, h.lp, h.mu, h.cu, h.tu⟩
theorem State.Kept.setHanded (h : s.Kept R C) (v : Handed) : (s.setHanded v).Kept R C :=
  ⟨h.fs, h.we, h.lc, h.lp, h.mu, h.cu, h.tu⟩
theorem State.Kept.setFree (h : s.Kept R C) (v : Nat) : (s.setFree v).Kept R C := ⟨h.fs, h.we, h.lc, h.lp, h.mu, h.cu, h.tu⟩
theorem State.Kept.setMu (h : s.Kept R C) {v : Membership} (hv : C → v.listenCount ≤ 4) : (s.setMu v).Kept R C :=
  ⟨h.fs, h.we, h.lc, h.lp, hv, h.cu, h.tu⟩
theorem State.Kept.setLc (h : s.Kept R C) {v : Link} (hv : C → v.Fits) : (s.setLc v).Kept R C :=
  ⟨h.fs, h.we, hv, h.lp, h.mu, h.cu, h.tu⟩
theorem State.Kept.setTu (h : s.Kept R C) {v : Timing} (hv : C → v.silent ≤ 255) : (s.setTu v).Kept R C :=
  ⟨h.fs, h.we, h.lc, h.lp, h.mu, h.cu, hv⟩
theorem State.Kept.setCu (h : s.Kept R C) {v : Commit} (hv : C → v.timer ≤ 60) : (s.setCu v).Kept R C :=
  ⟨h.fs, h.we, h.lc, h.lp, h.mu, hv, h.tu⟩
theorem State.Kept.setFs (h : s.Kept R C) {v : FrameStore} (hv : v.Kept R C) : (s.setFs v).Kept R C :=
  ⟨hv, h.we, h.lc, h.lp, h.mu, h.cu, h.tu⟩
theorem State.Kept.setWe (h : s.Kept R C) {v : Window} (hv : v.Kept C) : (s.setWe v).Kept R C :=
  ⟨h.fs, hv, h.lc, h.lp, h.mu, h.cu, h.tu⟩
theorem State.Kept.setLp (h : s.Kept R C) {v : Port} (hv : C → v.events.length ≤ 32) : (s.setLp v).Kept R C :=
  ⟨h.fs, h.we, h.lc, hv, h.mu, h.cu, h.tu⟩

/-- An operation on the Outbound Queue and the span builder. -/
theorem State.Kept.of_view {t : State} (h : s.Kept R C) (hl : C → t.lc.Fits) (hb : t.we.buffer = s.we.buffer)
    (ha : t.we.assembler = s.we.assembler) (hf : t.fs = s.fs) (hp : t.lp = s.lp) (hm : t.mu = s.mu) (hc : t.cu = s.cu)
    (ht : t.tu = s.tu) : t.Kept R C :=
  ⟨hf ▸ h.fs, ⟨fun hC => hb ▸ h.we.buffer hC, fun hC => ha ▸ h.we.assembler hC⟩, hl, fun hC => hp ▸ h.lp hC,
    fun hC => hm ▸ h.mu hC, fun hC => hc ▸ h.cu hC, fun hC => ht ▸ h.tu hC⟩

/-! ## The Frame Store's row sets and inbound queue -/

/-- Row sets and inbound queue as they were. -/
theorem FrameStore.Kept.of_fields {f g : FrameStore} (h : f.Kept R C) (hd : g.dirty = f.dirty) (hc : g.carry = f.carry)
    (hi : g.inbound = f.inbound) : g.Kept R C := by
  refine ⟨fun hR => ?_, fun hC => ?_⟩
  · rw [FrameStore.RowsAscending, hd, hc]
    exact h.rows hR
  · rw [hi]
    exact h.inbound hC

theorem FrameStore.kept_clean {f : FrameStore} (hd : f.dirty = []) (hc : f.carry = []) (hi : f.inbound = []) : f.Kept R C := by
  refine ⟨fun _ => ?_, fun _ => ?_⟩
  · rw [FrameStore.RowsAscending, hd, hc]
    exact ⟨.nil, .nil⟩
  · rw [hi]
    exact Nat.zero_le _

theorem FrameStore.Kept.dirtied {f : FrameStore} (h : f.Kept R C) (o : Operation) : (f.dirtied o).Kept R C := by
  unfold FrameStore.dirtied
  split
  · exact h
  · refine ⟨fun hR => ?_, h.inbound⟩
    obtain ⟨hd, hc⟩ := h.rows hR
    exact ⟨insertRow_pairwise _ _ hd, hc⟩

theorem State.Kept.writeBank (h : s.Kept R C) (bank : Bank) (row start : Nat) (ps : List Pixel) :
    (s.writeBank bank row start ps).Kept R C := by
  obtain ⟨hd, hc, hi⟩ := setBank_fields s.fs bank (writePixels (s.fs.bank bank) row start ps)
  exact h.setFs (h.fs.of_fields hd hc hi)

theorem State.Kept.abandonOperation (h : s.Kept R C) : s.abandonOperation.Kept R C := by
  unfold State.abandonOperation
  split
  · exact h
  · have hw := h.writeBank
    exact ((hw _ _ _ _).setFree _).setFs ((hw _ _ _ _).fs.of_fields rfl rfl rfl)

theorem State.Kept.beginOperation (h : s.Kept R C) (q : Requester) : (s.beginOperation q).Kept R C := by
  unfold State.beginOperation
  dsimp only
  split
  · exact h
  · refine h.setFs ?_
    split
    · exact h.fs.of_fields rfl rfl rfl
    · refine FrameStore.Kept.dirtied ?_ _
      exact h.fs.of_fields rfl rfl rfl

theorem State.Kept.grantBody (h : s.Kept R C) : s.grantBody.Kept R C := by
  unfold State.grantBody
  split
  · exact h.beginOperation _
  · exact h

theorem State.Kept.bankClearEndBody (h : s.Kept R C) : s.bankClearEndBody.Kept R C := by
  unfold State.bankClearEndBody
  split
  · exact h.setFs (h.fs.of_fields rfl rfl rfl)
  · exact h

theorem State.Kept.bankClearRowBody (h : s.Kept R C) : s.bankClearRowBody.Kept R C := by
  unfold State.bankClearRowBody
  split
  · exact h.setFs (h.fs.of_fields rfl rfl rfl)
  · exact h

theorem State.Kept.carried (h : s.Kept R C) (row : Nat) : (s.carried row).Kept R C := by
  refine h.setFs ⟨fun hR => ?_, h.fs.inbound⟩
  obtain ⟨hd, hc⟩ := h.fs.rows hR
  exact ⟨hd, hc.sublist List.erase_sublist⟩

theorem State.Kept.inboundTold (h : s.Kept R C) : s.inboundTold.Kept R C := by
  unfold State.inboundTold
  have hi := h.fs.inbound
  split
  · exact h
  · rename_i q rest hq
    rw [hq] at hi
    split
    · exact h.setFs ⟨h.fs.rows, fun hC => (Nat.le_succ _).trans (hi hC)⟩
    · exact h.setFs ⟨h.fs.rows, hi⟩

theorem State.Kept.tell (h : s.Kept R C) (o : Operation) : (s.tell o).Kept R C := by
  unfold State.tell
  split
  · exact h.setWe ⟨h.we.buffer, h.we.assembler⟩
  · exact h.setWe ⟨h.we.buffer, h.we.assembler⟩
  · exact h.inboundTold
  · exact h.carried _

/-! ## The event queue (R187) -/

theorem enqueue_events_length (p : Port) (e : EventRecord) (h : p.events.length ≤ 32) : (p.enqueue e).events.length ≤ 32 := by
  unfold Port.enqueue
  split
  · rename_i hlt
    have hcap : Config.eventCapacity = 32 := rfl
    simp only [List.length_append, List.length_singleton]
    omega
  · exact h

theorem foldl_enqueue_events_length (l : List EventRecord) : ∀ p : Port, p.events.length ≤ 32 →
    (l.foldl Port.enqueue p).events.length ≤ 32 := by
  induction l with
  | nil => exact fun p h => h
  | cons e l ih => exact fun p h => ih _ (enqueue_events_length p e h)

theorem State.Kept.count (h : s.Kept R C) (c : Counters) : (s.count c).Kept R C := h.setLp h.lp
theorem State.Kept.raise (h : s.Kept R C) (e : EventRecord) : (s.raise e).Kept R C := h.setLp h.lp
theorem State.Kept.raiseAfter (h : s.Kept R C) (e : EventRecord) : (s.raiseAfter e).Kept R C := h.setLp h.lp
theorem State.Kept.openPort (h : s.Kept R C) (t : Transaction) (l : List Byte) : (s.openPort t l).Kept R C := h.setLp h.lp
theorem State.Kept.setResult (h : s.Kept R C) (r : Result) : (s.setResult r).Kept R C := h.setLp h.lp

theorem endStream_events (p : Port) : p.endStream.events = p.events := by
  unfold Port.endStream
  split <;> rfl

theorem State.Kept.admitRaised (h : s.Kept R C) : s.admitRaised.Kept R C :=
  ⟨h.fs, h.we, h.lc, fun hC => foldl_enqueue_events_length _ _ (h.lp hC), h.mu, h.cu, h.tu⟩

theorem State.Kept.found (h : s.Kept R C) : s.found.Kept R C :=
  ⟨h.fs, h.we, h.lc, h.lp, h.mu, fun _ => Nat.zero_le _, fun _ => Nat.zero_le _⟩

theorem State.Kept.closeEvent (h : s.Kept R C) : (closeEvent s).Kept R C := by
  refine State.Kept.admitRaised ?_
  unfold State.refound
  split
  · exact h.found.raiseAfter _
  · exact h

/-! ## Control slots, collection record, removals -/

theorem State.Kept.setSlots (h : s.Kept R C) (v : Slots) : (s.setSlots v).Kept R C := h.setLc h.lc

theorem State.Kept.requestDrop (h : s.Kept R C) (m : StationSet) : (s.requestDrop m).Kept R C := by
  unfold State.requestDrop
  split <;> exact h.setSlots _

theorem State.Kept.dropLoses (h : s.Kept R C) (m : StationSet) : (s.dropLoses m).Kept R C := by
  unfold State.dropLoses
  (repeat' split) <;> first | exact h | exact h.setSlots _

theorem State.Kept.rankRetest (h : s.Kept R C) : s.rankRetest.Kept R C := by
  unfold State.rankRetest
  split
  · exact h.requestDrop _
  · exact h

theorem State.Kept.latchSlots (h : s.Kept R C) (v : Bool) : (s.latchSlots v).Kept R C := by
  unfold State.latchSlots
  split
  · exact h.setLc h.lc
  · exact h

theorem State.Kept.setRecord (h : s.Kept R C) (r : Record) : (s.setRecord r).Kept R C := h.setCu h.cu

theorem State.Kept.recordLoses (h : s.Kept R C) (m : StationSet) : (s.recordLoses m).Kept R C := by
  unfold State.recordLoses
  split
  · exact h
  · exact h.setRecord _

theorem State.Kept.completionCheck (h : s.Kept R C) (k : Completing) : (s.completionCheck k).Kept R C := by
  unfold State.completionCheck
  split
  · exact h
  · split
    · exact (h.setCu fun _ => Nat.zero_le _).setSlots _
    · exact h

theorem State.Kept.rejoin (h : s.Kept R C) (x : Station) (k : Completing) : (s.rejoin x k).Kept R C :=
  (h.recordLoses _).completionCheck k

theorem State.Kept.discardFor (h : s.Kept R C) (x : Station) : (s.discardFor x).Kept R C := by
  rw [discardFor_eq]
  exact ⟨h.fs, ⟨h.we.buffer, h.we.assembler⟩, fun hC => (List.length_filter_le _ _).trans (h.lc hC), h.lp, h.mu, h.cu, h.tu⟩

theorem kept_foldl_discardFor (l : List Station) : ∀ s : State, s.Kept R C → (l.foldl State.discardFor s).Kept R C := by
  induction l with
  | nil => exact fun s h => h
  | cons x l ih => exact fun s h => ih _ (h.discardFor x)

theorem State.Kept.handOnRemovals (h : s.Kept R C) (m : StationSet) : (s.handOnRemovals m).Kept R C :=
  kept_foldl_discardFor _ _ (h.dropLoses m)

theorem State.Kept.setMembers (h : s.Kept R C) (m : StationSet) : (s.setMembers m).Kept R C := h.setMu h.mu

theorem State.Kept.lose (h : s.Kept R C) (m : StationSet) : (s.lose m).Kept R C := by
  unfold State.lose
  split
  · exact h
  · exact (((h.setMembers _).handOnRemovals m).recordLoses m).rankRetest

/-! ## Leaving and entering -/

theorem State.Kept.setLock (h : s.Kept R C) (l : LockState) : (s.setLock l).Kept R C := by
  unfold State.setLock
  split
  · exact h
  · refine State.Kept.raise (State.Kept.setTu h ?_) _
    exact h.tu

theorem Window.Kept.emptied (C : Prop) (w : Window) : w.emptied.Kept C := ⟨fun _ => Nat.zero_le _, fun _ => Nat.zero_le _⟩

theorem State.Kept.teardown (h : s.Kept R C) (st : StationState) (c : Cause) : (s.teardown st c).Kept R C := by
  have h1 := h.abandonOperation.setLock .free
  exact ⟨⟨fun hR => ⟨(h1.fs.rows hR).1, .nil⟩, fun _ => Nat.zero_le _⟩, Window.Kept.emptied C _, fun _ => emptied_outbound _,
    fun hC => (congrArg List.length (endStream_events _)).trans_le (h1.lp hC), h1.mu, fun _ => Nat.zero_le _,
    fun _ => Nat.zero_le _⟩

theorem State.Kept.enterConflict (h : s.Kept R C) (b : Bool) : (s.enterConflict b).Kept R C := (h.teardown _ _).raise _
theorem State.Kept.evict (h : s.Kept R C) (b : Bool) : (s.evict b).Kept R C := (h.teardown _ _).raise _
theorem State.Kept.detach (h : s.Kept R C) : s.detach.Kept R C := (h.teardown _ _).raise _

theorem State.Kept.enterListen (h : s.Kept R C) : s.enterListen.Kept R C :=
  ⟨FrameStore.kept_clean rfl rfl rfl, h.we, fun _ => emptied_outbound _, h.lp, fun _ => Nat.zero_le _, fun _ => Nat.zero_le _,
    fun _ => Nat.zero_le _⟩

/-! ## The rows that follow inside an event -/

theorem State.Kept.carryRows (h : s.Kept R C) (hR : R) : s.carryRows.Pairwise (· < ·) := by
  unfold State.carryRows
  split
  · exact (h.fs.rows hR).1
  · exact List.pairwise_lt_range

theorem State.Kept.takeFlip (h : s.Kept R C) (r : Record) (l : LastCommit) : (s.takeFlip r l).Kept R C := by
  have h1 : ((s.swapBanks.passFlip r l).reportFlip l.epoch).Kept R C :=
    ⟨⟨fun hR => ⟨.nil, h.carryRows hR⟩, h.fs.inbound⟩, h.we, h.lc, h.lp, h.mu, h.cu, h.tu⟩
  unfold State.takeFlip State.reportLateness
  split
  · exact h1
  · exact (h1.count _).raiseAfter _

theorem State.Kept.flipBody (h : s.Kept R C) : s.flipBody.Kept R C := by
  unfold State.flipBody
  dsimp only
  (repeat' split) <;> first | exact h | exact h.setHanded _ | exact (h.setHanded _).takeFlip _ _

theorem State.Kept.flipPassedBody (h : s.Kept R C) : s.flipPassedBody.Kept R C := by
  unfold State.flipPassedBody
  dsimp only
  (repeat' split) <;> first | exact h | exact h.setHanded _ | exact (h.setHanded _).setRecord _

theorem State.Kept.lockLossBody (h : s.Kept R C) : s.lockLossBody.Kept R C := by
  unfold State.lockLossBody
  split
  · exact (h.setHanded _).setLock _
  · exact h

theorem State.Kept.beaconLossBody (h : s.Kept R C) : s.beaconLossBody.Kept R C := by
  unfold State.beaconLossBody
  split
  · exact (h.setHanded _).rankRetest
  · exact h

theorem State.Kept.readyWaitBody (h : s.Kept R C) : s.readyWaitBody.Kept R C := by
  unfold State.readyWaitBody
  dsimp only
  (repeat' split) <;> first | exact h | exact h.setHanded _ | exact (h.setHanded _).requestDrop _

theorem State.Kept.joiningPassageBody (h : s.Kept R C) : s.joiningPassageBody.Kept R C := by
  unfold State.joiningPassageBody
  split
  · refine State.Kept.setSlots (State.Kept.setMu h ?_) _
    exact h.mu
  · exact h

theorem State.Kept.waitingSpanBody (h : s.Kept R C) : s.waitingSpanBody.Kept R C :=
  ⟨h.fs, ⟨h.we.buffer, h.we.assembler⟩, fun hC => waitingSpanBody_outbound s (h.lc hC), h.lp, h.mu, h.cu, h.tu⟩

theorem State.Kept.readyQueuedBody (h : s.Kept R C) : s.readyQueuedBody.Kept R C := by
  unfold State.readyQueuedBody
  split
  · exact h.setSlots _
  · exact h

theorem State.Kept.settle (h : s.Kept R C) : (settle s).Kept R C :=
  h.flipBody.closeEvent.flipPassedBody.closeEvent.lockLossBody.closeEvent.beaconLossBody.closeEvent.readyWaitBody.closeEvent
    |>.bankClearEndBody.closeEvent.joiningPassageBody.closeEvent.waitingSpanBody.closeEvent.readyQueuedBody.closeEvent
    |>.grantBody.closeEvent

/-! ## The Frame Store's commands -/

theorem State.Kept.operationEndBody (h : s.Kept R C) (v : Bool) : (s.operationEndBody v).Kept R C := by
  unfold State.operationEndBody
  dsimp only
  split
  · exact h
  · rename_i o _
    have hl : ((s.latchSlots v).landOperation o).Kept R C := (h.latchSlots v).writeBank _ _ _ _
    split
    · refine State.Kept.setFs (hl.carried _) (FrameStore.Kept.dirtied ?_ _)
      exact (hl.carried _).fs.of_fields rfl rfl rfl
    · refine State.Kept.tell (hl.setFs ?_) _
      exact hl.fs.of_fields rfl rfl rfl

/-! ## The Local Port's and the Commit Unit's commands -/

theorem State.Kept.judged (h : s.Kept R C) {judge : State → Judged}
    (hj : ∀ u : State, u.Kept R C → (judge u).1.Kept R C) : (s.judged judge).Kept R C :=
  judged_keeps _ judge (fun _ t l hu => hu.openPort t l) (fun _ r hu => hu.setResult r) hj s h

theorem State.Kept.exactLength (h : s.Kept R C) (t : Tail) (n : Nat) {judge : State → Judged} (hj : (judge s).1.Kept R C) :
    (exactLength t n s judge).1.Kept R C := by
  unfold Machine.exactLength
  split
  · exact hj
  · exact h

theorem State.Kept.readStatusBody (h : s.Kept R C) (n : Nat) : (s.readStatusBody n).Kept R C := by
  unfold State.readStatusBody
  split
  · exact (h.openPort _ _).setResult _
  · exact h

theorem State.Kept.readEventBody (h : s.Kept R C) : s.readEventBody.Kept R C := by
  unfold State.readEventBody
  split
  · exact h.openPort _ _
  · exact h

theorem State.Kept.readCountersBody (h : s.Kept R C) : s.readCountersBody.Kept R C := by
  unfold State.readCountersBody
  split
  · exact h.openPort _ _
  · exact h

theorem State.Kept.emptyTransactionBody (h : s.Kept R C) : s.emptyTransactionBody.Kept R C := by
  unfold State.emptyTransactionBody
  split
  · exact h.openPort _ _
  · exact h

theorem State.Kept.readEventReleaseBody (h : s.Kept R C) (n : Nat) : (s.readEventReleaseBody n).Kept R C := by
  unfold State.readEventReleaseBody
  (repeat' split) <;> first
    | exact h | exact h.setLp h.lp | exact h.setLp fun hC => (List.drop_sublist 1 _).length_le.trans (h.lp hC)

theorem State.Kept.readCountersReleaseBody (h : s.Kept R C) (n : Nat) : (s.readCountersReleaseBody n).Kept R C := by
  unfold State.readCountersReleaseBody
  (repeat' split) <;> first | exact h | exact h.setLp h.lp

theorem State.Kept.readFrontBody (h : s.Kept R C) (n : Nat) (l : List Byte) : (s.readFrontBody n l).Kept R C := by
  unfold State.readFrontBody
  dsimp only
  (repeat' split) <;> first | exact h | exact (h.openPort _ _).setResult _

theorem State.Kept.readFrontRowBody (h : s.Kept R C) : s.readFrontRowBody.Kept R C := by
  unfold State.readFrontRowBody
  dsimp only
  (repeat' split) <;> first | exact h | exact h.setLp h.lp

theorem State.Kept.judgePresent (h : s.Kept R C) : s.judgePresent.1.Kept R C := by
  unfold State.judgePresent
  split <;> first | exact h | exact h.setCu h.cu

/-! ## The Start-up Loader's commands and the resets -/

theorem State.Kept.failLoad (h : s.Kept R C) (r : FaultReason) : (s.failLoad r).Kept R C :=
  ((h.setMu fun _ => Nat.zero_le _).setSl _).raise _

theorem leaveFrame_fits (l : Link) (h : l.Fits) : l.leaveFrame.Fits := by
  unfold Link.leaveFrame
  split <;> exact h

theorem State.Kept.load (h : s.Kept R C) (c : Configuration) : (s.load c).Kept R C := by
  rw [load_eq]
  exact ⟨FrameStore.kept_clean rfl rfl rfl, ⟨h.we.buffer, h.we.assembler⟩, fun _ => leaveFrame_fits _ (emptied_outbound _), h.lp,
    fun _ => Nat.zero_le _, fun _ => Nat.zero_le _, fun _ => Nat.zero_le _⟩

theorem State.Kept.conclude (h : s.Kept R C) (v : Except FaultReason Configuration) : (s.conclude v).Kept R C := by
  unfold State.conclude
  split
  · exact h.failLoad _
  · exact h.load _

theorem State.Kept.setLoader (h : s.Kept R C) (l : Loader) : (s.setLoader l).Kept R C := h.setSl _

theorem State.Kept.failAttempt (h : s.Kept R C) (n : Nat) : (s.failAttempt n).Kept R C := by
  unfold State.failAttempt
  split
  · exact (h.setLoader _).setMu fun _ => Nat.zero_le _
  · exact h.setLoader _

theorem State.Kept.eepromAttemptBody (h : s.Kept R C) (m : Option AckBit) : (s.eepromAttemptBody m).Kept R C := by
  unfold State.eepromAttemptBody
  (repeat' split) <;> first | exact h | exact h.failAttempt _ | exact h.setLoader _

theorem State.Kept.eepromExpiryBody (h : s.Kept R C) : s.eepromExpiryBody.Kept R C := by
  unfold State.eepromExpiryBody
  (repeat' split) <;> first | exact h | exact h.setLoader _

theorem State.Kept.eepromByteBody (h : s.Kept R C) (v : Byte) : (s.eepromByteBody v).Kept R C := by
  unfold State.eepromByteBody
  dsimp only
  (repeat' split) <;> first | exact h | exact h.conclude _ | exact h.failLoad _ | exact h.setSl _

theorem State.Kept.judgeConfigRecord (h : s.Kept R C) (l : List Byte) : (s.judgeConfigRecord l).1.Kept R C := by
  unfold State.judgeConfigRecord
  dsimp only
  (repeat' split) <;> first | exact h | exact h.setSl _

theorem State.Kept.judgeConfigEnd (h : s.Kept R C) (l : List Byte) : (s.judgeConfigEnd l).1.Kept R C := by
  unfold State.judgeConfigEnd
  (repeat' split) <;> first | exact h | exact h.failLoad _ | exact h.load _

theorem kept_hardReset (s : State) (low : Bool) : (s.hardReset low).Kept R C :=
  ⟨FrameStore.kept_clean rfl rfl rfl, ⟨fun _ => Nat.zero_le _, fun _ => Nat.zero_le _⟩, fun _ => Nat.zero_le _,
    fun _ => Nat.zero_le _, fun _ => Nat.zero_le _, fun _ => Nat.zero_le _, fun _ => Nat.zero_le _⟩

theorem kept_freshWindow (c : Option Configuration) : (freshWindow c).Kept C := by
  unfold freshWindow
  split <;> exact ⟨fun _ => Nat.zero_le _, fun _ => Nat.zero_le _⟩

theorem kept_softResetBody (s : State) : s.softResetBody.Kept R C := by
  unfold State.softResetBody State.afterSoftReset
  dsimp only
  split
  · exact ⟨FrameStore.kept_clean rfl rfl rfl, kept_freshWindow _, fun _ => Nat.zero_le _, fun _ => Nat.zero_le _,
      fun _ => Nat.zero_le _, fun _ => Nat.zero_le _, fun _ => Nat.zero_le _⟩
  · exact ⟨FrameStore.kept_clean rfl rfl rfl, kept_freshWindow _, fun _ => Nat.zero_le _, fun _ => Nat.zero_le _,
      fun _ => Nat.zero_le _, fun _ => Nat.zero_le _, fun _ => Nat.zero_le _⟩

/-! ## The Membership Unit's part of a frame -/

theorem State.Kept.judgeLeave (h : s.Kept R C) : s.judgeLeave.1.Kept R C := by
  unfold State.judgeLeave
  split
  · dsimp only
    split
    · exact h.setSlots _
    · exact h
  · exact h

theorem State.Kept.judgeJoin (h : s.Kept R C) : s.judgeJoin.1.Kept R C := by
  unfold State.judgeJoin
  split
  · exact h.enterListen
  · exact h

theorem State.Kept.reportForeign (h : s.Kept R C) (x : Station) : (s.reportForeign x).Kept R C := by
  unfold State.reportForeign
  split
  · exact h
  · refine State.Kept.raise (h.setMu ?_) _
    exact h.mu

theorem State.Kept.learnJoin (h : s.Kept R C) (x : Station) (k : Completing) : (s.learnJoin x k).Kept R C := by
  have h1 : (s.setMu { s.mu with members := withStation s.mu.members x, memberRecorded := true }).Kept R C := h.setMu h.mu
  unfold State.learnJoin
  dsimp only
  split
  · exact h1.rejoin x k
  · exact h1

theorem State.Kept.admitMember (h : s.Kept R C) (x : Station) (k : Completing) : (s.admitMember x k).Kept R C := by
  have h1 : (s.setMu { s.mu with members := withStation s.mu.members x,
                                 foreign := setMinus s.mu.foreign (oneStation x) }).Kept R C := h.setMu h.mu
  unfold State.admitMember
  dsimp only
  split
  · exact (h.raise _).rejoin x k
  · exact (h1.raise _).rankRetest

theorem State.Kept.applyJoin (h : s.Kept R C) (x : Station) (b : JoinBody) : (s.applyJoin x b).Kept R C := by
  unfold State.applyJoin
  (repeat' split)
  · exact h.admitMember x _
  · exact h.learnJoin x _
  · exact h
  · exact h.enterConflict _

theorem State.Kept.foundWall (h : s.Kept R C) : s.foundWall.Kept R C := h.found.raise _

theorem State.Kept.becomeMember (h : s.Kept R C) (k : Completing) : (s.becomeMember k).Kept R C := by
  have h1 : ((((s.setMu { s.mu with state := .member, members := withStation s.mu.members s.self }).setCu
      { s.cu with phase := if s.mu.synced then .idle else .absent }).raise (EventRecord.joined s.self))).Kept R C :=
    ⟨h.fs, h.we, h.lc, h.lp, h.mu, h.cu, h.tu⟩
  unfold State.becomeMember
  dsimp only
  split
  · exact h1.rejoin _ _
  · exact h1.rankRetest

theorem State.Kept.applyOwnJoin (h : s.Kept R C) (k : Completing) : (s.applyOwnJoin k).Kept R C := by
  unfold State.applyOwnJoin
  split
  · exact h.becomeMember k
  · exact h.foundWall

theorem State.Kept.settleJoin (h : s.Kept R C) : s.settleJoin.Kept R C := by
  unfold State.settleJoin
  split
  · exact h.enterListen
  · exact h.foundWall

theorem State.Kept.applyLeave (h : s.Kept R C) (x : Station) (k : Completing) : (s.applyLeave x k).Kept R C := by
  unfold State.applyLeave
  (repeat' split)
  · exact h
  · exact ((h.lose _).raise _).completionCheck _
  · exact ((h.setMembers _).recordLoses _).completionCheck _

theorem State.Kept.reportDropped (h : s.Kept R C) (m : StationSet) (e : Epoch) : (s.reportDropped m e).Kept R C := by
  unfold State.reportDropped
  split
  · exact h
  · exact h.raise _

theorem State.Kept.applyDrop (h : s.Kept R C) (b : DropBody) : (s.applyDrop b).Kept R C := by
  unfold State.applyDrop
  dsimp only
  (repeat' split)
  · exact h.evict _
  · exact ((h.lose _).reportDropped _ _).completionCheck _
  · exact ((h.setMembers _).recordLoses _).completionCheck _

theorem State.Kept.ownReadyApplied (h : s.Kept R C) (x : Station) : (s.ownReadyApplied x).Kept R C := by
  unfold State.ownReadyApplied
  split
  · exact h.setCu fun _ => Nat.zero_le _
  · exact h

theorem State.Kept.applyReady (h : s.Kept R C) (x : Station) (b : ReadyBody) : (s.applyReady x b).Kept R C := by
  unfold State.applyReady
  (repeat' split) <;> first
    | exact h | exact (h.ownReadyApplied _).completionCheck _
    | exact (((h.setRecord _).dropLoses _).ownReadyApplied _).completionCheck _

/-! ## The Timing Unit's commands -/

theorem State.Kept.countFrame (h : s.Kept R C) : s.countFrame.Kept R C :=
  h.setTu fun _ => Nat.min_le_left _ _

theorem State.Kept.countListen (h : s.Kept R C) : s.countListen.Kept R C := by
  unfold State.countListen
  split
  · exact h.setMu fun _ => Nat.min_le_left _ _
  · exact h

theorem State.Kept.countWait (h : s.Kept R C) : s.countWait.Kept R C := by
  unfold State.countWait
  split
  · exact h.setCu fun _ => Nat.min_le_left _ _
  · exact h

theorem State.Kept.fillBeacon (h : s.Kept R C) : s.fillBeacon.Kept R C := by
  unfold State.fillBeacon
  split
  · exact h.setSlots _
  · exact h

theorem State.Kept.verticalStartBody (h : s.Kept R C) (v : Bool) : (s.verticalStartBody v).Kept R C := by
  unfold State.verticalStartBody
  split
  · exact (h.latchSlots v).countFrame.countListen.countWait.fillBeacon.setHanded _
  · exact h

theorem State.Kept.blankEndBody (h : s.Kept R C) : s.blankEndBody.Kept R C := by
  unfold State.blankEndBody
  split
  · exact h.setTu h.tu
  · exact h

theorem State.Kept.prsReleaseBody (h : s.Kept R C) : s.prsReleaseBody.Kept R C := by
  unfold State.prsReleaseBody
  (repeat' split) <;> first | exact h | exact h.setLp h.lp

/-! ## Adoption -/

theorem State.Kept.placeCorrection (h : s.Kept R C) (e : Int) : (s.placeCorrection e).Kept R C := by
  unfold State.placeCorrection
  dsimp only
  (repeat' split) <;> first | exact h | exact h.setTu h.tu

theorem State.Kept.adoptTiming (h : s.Kept R C) (x : Station) (b : BeaconBody) : (s.adoptTiming x b).Kept R C := by
  have hsource : ∀ t : State, t.Kept R C → (t.adoptSource x).Kept R C := by
    intro t ht
    unfold State.adoptSource
    split
    · exact ht
    · refine State.Kept.raise (ht.setTu ?_) _
      exact ht.tu
  have hwithdraw : ∀ t : State, t.Kept R C → (t.withdrawBeacon x).Kept R C := by
    intro t ht
    unfold State.withdrawBeacon
    split
    · exact ht.setSlots _
    · exact ht
  refine hwithdraw _ (hsource _ (State.Kept.placeCorrection (State.Kept.setLock (h.setTu ?_) _) _))
  exact fun _ => Nat.zero_le _

theorem State.Kept.adoptMembers (h : s.Kept R C) (b : BeaconBody) : (s.adoptMembers b).Kept R C := by
  unfold State.adoptMembers
  dsimp only
  split
  · refine State.Kept.handOnRemovals (h.setMu ?_) _
    exact h.mu
  · exact h.setMu h.mu

theorem State.Kept.adoptSlots (h : s.Kept R C) (r : Record) (kept : Bool) : (s.adoptSlots r kept).Kept R C := by
  rw [adoptSlots_eq]
  exact ⟨h.fs, h.we, h.lc, h.lp, h.mu, h.cu, h.tu⟩

theorem State.Kept.adoptRecord (h : s.Kept R C) (b : BeaconBody) : (s.adoptRecord b).Kept R C := by
  unfold State.adoptRecord
  dsimp only
  have htimer : ∀ (p : Prop) [Decidable p], C → (if p then s.cu.timer else 0) ≤ 60 := by
    intro p _ hC
    split
    · exact h.cu hC
    · exact Nat.zero_le _
  exact State.Kept.adoptSlots (h.setCu (htimer _)) _ _

theorem State.Kept.adoptInbound (h : s.Kept R C) (old : Option Epoch) : (s.adoptInbound old).Kept R C := by
  unfold State.adoptInbound
  (repeat' split) <;> first | exact h | skip
  refine State.Kept.count (h.setFs ?_) _
  exact ⟨h.fs.rows, fun hC => (keptEntries_length _ _).trans (h.fs.inbound hC)⟩

theorem State.Kept.adopt (h : s.Kept R C) (x : Station) (b : BeaconBody) : (s.adopt x b).Kept R C := by
  have h1 := (((h.adoptTiming x b).adoptMembers b).adoptRecord b).adoptInbound s.backEpoch
  unfold State.adopt State.reportSlip
  split
  · exact h1.raise _
  · exact h1

theorem State.Kept.applyBeacon (h : s.Kept R C) (x : Station) (b : BeaconBody) : (s.applyBeacon x b).Kept R C := by
  unfold State.applyBeacon
  (repeat' split)
  · exact h.reportForeign _
  · exact h.enterConflict _
  · exact h.evict _
  · exact h.adopt _ _
  · exact h.enterConflict _
  · exact h.adopt _ _

/-! ## The Wall Link's commands -/

theorem State.Kept.linkIdleBody (h : s.Kept R C) : s.linkIdleBody.Kept R C := h.setLc h.lc

theorem State.Kept.seeStart (h : s.Kept R C) (a : Option Attempt) : (s.seeStart a).Kept R C := by
  have h1 : ((s.setLc { s.lc with view := .inFrame, flight := a, slotView := none }).setTu
      { s.tu with startPhase := s.tu.generator.map s.sinceVertical, startsSince := 0 }).Kept R C :=
    ⟨h.fs, h.we, h.lc, h.lp, h.mu, h.cu, h.tu⟩
  unfold State.seeStart
  dsimp only
  (repeat' split) <;> first | exact h1 | exact h1.setFree _

theorem State.Kept.frameStartBody (h : s.Kept R C) (w : StartField) : (s.frameStartBody w).Kept R C := by
  unfold State.frameStartBody
  (repeat' split) <;> first | exact h | exact h.seeStart _

theorem State.Kept.afterFrame (h : s.Kept R C) : (s.setLc s.lc.afterFrame).Kept R C := h.setLc h.lc

theorem State.Kept.frameCutShortBody (h : s.Kept R C) (b : Bool) : (s.frameCutShortBody b).Kept R C := by
  unfold State.frameCutShortBody
  dsimp only
  (repeat' split) <;> first | exact h | exact h.afterFrame | exact h.afterFrame.enterConflict _

theorem State.Kept.holdoffExpiryBody (h : s.Kept R C) (c : ControlSlot) : (s.holdoffExpiryBody c).Kept R C := by
  unfold State.holdoffExpiryBody
  split
  · exact h.setSlots _
  · exact h

theorem State.Kept.setAddressee (h : s.Kept R C) (x : Station) (r : Retry) : (s.setAddressee x r).Kept R C := h.setLc h.lc

theorem State.Kept.placeEntry (h : s.Kept R C) (x : Station) (b : PaintBody) : (s.placeEntry x b).Kept R C := by
  unfold State.placeEntry
  (repeat' split) <;> first | exact h.count _ | skip
  rename_i hroom
  refine h.setFs ⟨h.fs.rows, fun _ => ?_⟩
  have hcap : Config.inboundCapacity = 16 := rfl
  simp only [List.length_append, List.length_singleton]
  omega

theorem State.Kept.deliver (h : s.Kept R C) (x : Station) (took : Bool) (b : Body) : (s.deliver x took b).Kept R C := by
  cases b with
  | beacon b => exact h.applyBeacon x b
  | join b => exact h.applyJoin x b
  | leave b => exact h.applyLeave x _
  | ready b => exact h.applyReady x b
  | drop b => exact h.applyDrop b
  | paint b =>
    unfold State.deliver
    dsimp only
    split
    · exact h.placeEntry x b
    · exact h

theorem State.Kept.receive (h : s.Kept R C) (k : FrameKind) (e : FrameEnd) (v : SlotView) : (s.receive k e v).Kept R C := by
  unfold State.receive State.hear State.observe State.joiningConflict
  dsimp only
  (repeat' split) <;> first
    | exact h | exact h.count _ | exact (h.count _).enterConflict _ | exact h.deliver _ _ _ | exact h.reportForeign _

theorem State.Kept.holdSlot (h : s.Kept R C) (c : ControlSlot) : (s.holdSlot c).Kept R C := by
  unfold State.holdSlot
  split
  · exact h.setSlots _
  · exact h

theorem State.Kept.emptySlot (h : s.Kept R C) (c : ControlSlot) : (s.emptySlot c).Kept R C := by
  cases c <;> exact h.setSlots _

theorem State.Kept.removeHead (h : s.Kept R C) (x : Station) : (s.removeHead x).Kept R C :=
  ⟨h.fs, h.we, fun hC => List.eraseP_sublist.length_le.trans (h.lc hC), h.lp, h.mu, h.cu, h.tu⟩

theorem State.Kept.ownBeacon (h : s.Kept R C) (f : WireFrame) (v : Verdict) : (s.ownBeacon f v).Kept R C := by
  unfold State.ownBeacon
  dsimp only
  (repeat' split) <;> first | exact h.setSlots _ | exact (h.setSlots _).applyBeacon _ _

theorem State.Kept.ownDrop (h : s.Kept R C) (f : WireFrame) (v : Verdict) : (s.ownDrop f v).Kept R C := by
  unfold State.ownDrop State.reportAlone
  dsimp only
  (repeat' split) <;> first
    | exact (h.dropLoses _).applyDrop _ | exact h.holdSlot _ | exact ((h.holdSlot _).emptySlot _).applyDrop _
    | exact (((h.holdSlot _).emptySlot _).applyDrop _).raiseAfter _

theorem State.Kept.ownLeave (h : s.Kept R C) (v : Verdict) : (s.ownLeave v).Kept R C := by
  unfold State.ownLeave
  dsimp only
  (repeat' split) <;> first | exact h.detach | exact h.holdSlot _ | exact (h.holdSlot _).detach

theorem State.Kept.ownJoin (h : s.Kept R C) (f : WireFrame) (v : Verdict) : (s.ownJoin f v).Kept R C := by
  unfold State.ownJoin
  dsimp only
  (repeat' split) <;> first
    | exact (h.emptySlot _).applyOwnJoin _ | exact h.holdSlot _ | exact ((h.holdSlot _).emptySlot _).settleJoin

theorem State.Kept.ownReady (h : s.Kept R C) (f : WireFrame) (v : Verdict) : (s.ownReady f v).Kept R C := by
  unfold State.ownReady
  (repeat' split) <;> first | exact (h.emptySlot _).applyReady _ _ | exact h.holdSlot _

theorem State.Kept.ownEntry (h : s.Kept R C) (e : OutEntry) (v : Verdict) : (s.ownEntry e v).Kept R C := by
  unfold State.ownEntry
  dsimp only
  (repeat' split) <;> first
    | exact h.removeHead _ | exact h.setAddressee _ _ | exact ((h.removeHead _).count _).raise _

theorem State.Kept.ownFrame (h : s.Kept R C) (a : Attempt) (e : FrameEnd) : (s.ownFrame a e).Kept R C := by
  unfold State.ownFrame
  have ht : (if verdictOf e = .spoiled then s.countSpoil else s).Kept R C := by
    split
    · exact h.count _
    · exact h
  dsimp only
  generalize (if verdictOf e = .spoiled then s.countSpoil else s) = t at ht ⊢
  split
  · exact ht.ownBeacon _ _
  · exact ht.ownDrop _ _
  · exact ht.ownLeave _
  · exact ht.ownJoin _ _
  · exact ht.ownReady _ _
  · exact ht.ownEntry _ _

theorem State.Kept.endFrame (h : s.Kept R C) (k : FrameKind) (e : FrameEnd) : (s.endFrame k e).Kept R C := by
  unfold State.endFrame
  dsimp only
  (repeat' split) <;> first
    | exact h | exact h.afterFrame.receive _ _ _ | exact h.afterFrame.ownFrame _ _ | exact h.afterFrame.enterConflict _

/-! ## The Window Engine's commands -/

theorem State.Kept.judgeSetWindow (h : s.Kept R C) (l : List Byte) : (s.judgeSetWindow l).1.Kept R C := by
  unfold State.judgeSetWindow
  dsimp only
  (repeat' split) <;> first | exact h | exact h.setWe ⟨h.we.buffer, h.we.assembler⟩

theorem State.Kept.judgeFill (h : s.Kept R C) (l : List Byte) : (s.judgeFill l).1.Kept R C := by
  have hwe : (s.judgeFill l).1.we.buffer = s.we.buffer ∧ (s.judgeFill l).1.we.assembler = s.we.assembler := by
    unfold State.judgeFill
    dsimp only
    (repeat' split) <;> exact ⟨rfl, rfl⟩
  obtain ⟨hb, ha⟩ := hwe
  exact h.of_view (fun hC => judgeFill_outbound s l (h.lc hC)) hb ha (by simp) (by simp) (by simp) (by simp) (by simp)

theorem State.Kept.openStream (h : s.Kept R C) : s.openStream.Kept R C := by
  unfold State.openStream
  split <;> exact h.openPort _ _

theorem State.Kept.streamStartBody (h : s.Kept R C) : s.streamStartBody.Kept R C := by
  unfold State.streamStartBody
  dsimp only
  (repeat' split) <;> first
    | exact h | exact h.openStream | exact h.openStream.setWe ⟨h.openStream.we.buffer, fun _ => Nat.zero_le _⟩

theorem State.Kept.streamContinueBody (h : s.Kept R C) : s.streamContinueBody.Kept R C := by
  unfold State.streamContinueBody
  dsimp only
  (repeat' split) <;> first
    | exact h | exact h.openStream | exact h.openStream.setWe ⟨h.openStream.we.buffer, fun _ => Nat.zero_le _⟩

theorem State.Kept.offerPixel (h : s.Kept R C) (t : StreamTransaction) (e : Epoch) (p : Pixel) :
    (s.offerPixel t e p).Kept R C := by
  unfold State.offerPixel
  dsimp only
  split
  · rename_i hroom
    split
    · refine ⟨h.fs, ⟨fun _ => ?_, h.we.assembler⟩, h.lc, h.lp, h.mu, h.cu, h.tu⟩
      have hcap : Config.bufferCapacity = 32 := rfl
      show (s.we.buffer ++ [_]).length ≤ 32
      rw [List.length_append, List.length_singleton]
      omega
    · exact h
  · split
    · exact h.count _
    · refine State.Kept.raise (State.Kept.setLp (h.count _) ?_) _
      exact h.lp

theorem hostFormat_bytes_le (f : HostFormat) : f.bytes ≤ 3 := by cases f <;> decide

theorem State.Kept.streamPixelByteBody (h : s.Kept R C) (v : Byte) : (s.streamPixelByteBody v).Kept R C := by
  unfold State.streamPixelByteBody
  dsimp only
  (repeat' split) <;> first | exact h | skip
  · rename_i hshort
    have := hostFormat_bytes_le s.format
    exact h.setWe ⟨h.we.buffer, fun _ => by dsimp only; omega⟩
  · refine State.Kept.offerPixel (h.setWe ?_) _ _ _
    exact ⟨h.we.buffer, fun _ => Nat.zero_le _⟩

theorem State.Kept.offerRun (h : s.Kept R C) (r : Run) : (s.offerRun r).Kept R C := by
  have hwe : (s.offerRun r).we.buffer = s.we.buffer ∧ (s.offerRun r).we.assembler = s.we.assembler := by
    unfold State.offerRun
    (repeat' split) <;> exact ⟨rfl, rfl⟩
  obtain ⟨hb, ha⟩ := hwe
  exact h.of_view (fun hC => offerRun_outbound s r (h.lc hC)) hb ha (by simp) (by simp) (by simp) (by simp) (by simp)

theorem State.Kept.closeOpenRun (h : s.Kept R C) : s.closeOpenRun.Kept R C := by
  unfold State.closeOpenRun
  split
  · exact h
  · refine State.Kept.offerRun (h.setWe ?_) _
    exact ⟨h.we.buffer, h.we.assembler⟩

theorem markLast_length (l : List BufferedPixel) : (markLast l).length = l.length := by
  fun_induction markLast l with
  | case1 => rfl
  | case2 => rfl
  | case3 p q rest ih => simp only [List.length_cons, ih]

theorem State.Kept.endStream (h : s.Kept R C) (t : StreamTransaction) : (s.endStream t).Kept R C := by
  unfold State.endStream
  split
  · exact h.setWe ⟨fun hC => (markLast_length _).trans_le (h.we.buffer hC), h.we.assembler⟩
  · exact h.closeOpenRun

theorem State.Kept.streamReleaseBody (h : s.Kept R C) : s.streamReleaseBody.Kept R C := by
  unfold State.streamReleaseBody
  dsimp only
  (repeat' split) <;> first | exact h | exact h.setLp h.lp | skip
  refine State.Kept.endStream ?_ _
  exact ⟨h.fs, ⟨h.we.buffer, fun _ => Nat.zero_le _⟩, h.lc, h.lp, h.mu, h.cu, h.tu⟩

theorem State.Kept.setBuffer_tail (h : s.Kept R C) {p : BufferedPixel} {rest : List BufferedPixel}
    (hb : s.we.buffer = p :: rest) : (s.setBuffer rest).Kept R C := by
  refine h.setWe ⟨fun hC => ?_, h.we.assembler⟩
  have := h.we.buffer hC
  rw [hb, List.length_cons] at this
  exact (Nat.le_succ _).trans this

theorem State.Kept.placePixel (h : s.Kept R C) (t : Tile) (p : BufferedPixel) : (s.placePixel t p).Kept R C := by
  unfold State.placePixel
  dsimp only
  (repeat' split) <;> first
    | exact h.setWe ⟨h.we.buffer, h.we.assembler⟩
    | exact h.closeOpenRun.setWe ⟨h.closeOpenRun.we.buffer, h.closeOpenRun.we.assembler⟩

theorem State.Kept.closeIfFull (h : s.Kept R C) (b : Bool) : (s.closeIfFull b).Kept R C := by
  unfold State.closeIfFull
  (repeat' split) <;> first | exact h | exact h.closeOpenRun

theorem closeOpenRun_buffer (s : State) : s.closeOpenRun.we.buffer = s.we.buffer := by
  unfold State.closeOpenRun State.offerRun
  (repeat' split) <;> rfl

theorem State.Kept.routePixelBody (h : s.Kept R C) : s.routePixelBody.Kept R C := by
  unfold State.routePixelBody
  dsimp only
  split
  · exact h
  · rename_i p rest hb
    (repeat' split) <;> first
      | exact h | exact h.closeOpenRun | exact ((h.setBuffer_tail hb).placePixel _ _).closeIfFull _ | skip
    exact State.Kept.count (h.closeOpenRun.setBuffer_tail ((closeOpenRun_buffer s).trans hb)) _

/-! ## Every command -/

/-- Every command's own part keeps the row sets ascending and the bounds. -/
theorem State.Kept.effectOf (h : s.Kept R C) (c : Instr) : (effectOf c s).Kept R C := by
  cases c <;> dsimp only [Machine.effectOf]
  case powerOn => exact kept_hardReset _ _
  case resetPinAssert =>
    unfold State.resetAssertBody
    split
    · exact h
    · exact kept_hardReset _ _
  case resetPinRelease =>
    unfold State.resetReleaseBody
    split
    · exact h.setSl _
    · exact h
  case eepromAttempt => exact h.eepromAttemptBody _
  case eepromRetryWaitExpiry => exact h.eepromExpiryBody
  case eepromByte => exact h.eepromByteBody _
  case nop => exact h.judged fun u hu => hu.exactLength _ _ hu
  case setWindow => exact h.judged fun u hu => hu.exactLength _ _ (hu.judgeSetWindow _)
  case streamStart => exact h.streamStartBody
  case streamContinue => exact h.streamContinueBody
  case streamPixelByte => exact h.streamPixelByteBody _
  case streamRelease => exact h.streamReleaseBody
  case fill => exact h.judged fun u hu => hu.exactLength _ _ (hu.judgeFill _)
  case present => exact h.judged fun u hu => hu.exactLength _ _ hu.judgePresent
  case readStatus => exact h.readStatusBody _
  case readEvent => exact h.readEventBody
  case readEventRelease => exact h.readEventReleaseBody _
  case readCounters => exact h.readCountersBody
  case readCountersRelease => exact h.readCountersReleaseBody _
  case readFront => exact h.readFrontBody _ _
  case readFrontRow => exact h.readFrontRowBody
  case leave => exact h.judged fun u hu => hu.exactLength _ _ hu.judgeLeave
  case join => exact h.judged fun u hu => hu.exactLength _ _ hu.judgeJoin
  case softReset => exact h.judged fun u hu => hu.exactLength _ _ (kept_softResetBody u)
  case configRecord =>
    refine h.judged fun u hu => ?_
    split
    · exact hu.judgeConfigRecord _
    · exact hu
  case configEnd => exact h.judged fun u hu => hu.exactLength _ _ (hu.judgeConfigEnd _)
  case unknown => exact h.judged fun u hu => hu
  case emptyTransaction => exact h.emptyTransactionBody
  case linkIdle => exact h.linkIdleBody
  case frameStart => exact h.frameStartBody _
  case frameCutShort => exact h.frameCutShortBody _
  case beacon => exact h.endFrame _ _
  case joinFrame => exact h.endFrame _ _
  case leaveFrame => exact h.endFrame _ _
  case readyFrame => exact h.endFrame _ _
  case dropFrame => exact h.endFrame _ _
  case spanFrame => exact h.endFrame _ _
  case fillFrame => exact h.endFrame _ _
  case holdoffExpiry => exact h.holdoffExpiryBody _
  case addresseeHoldoffExpiry => exact h.setAddressee _ _
  case verticalStart => exact h.verticalStartBody _
  case lockLoss => exact h.lockLossBody
  case beaconLoss => exact h.beaconLossBody
  case readyWaitExpiry => exact h.readyWaitBody
  case joiningPassage => exact h.joiningPassageBody
  case flip => exact h.flipBody
  case flipPassed => exact h.flipPassedBody
  case prsRelease => exact h.prsReleaseBody
  case bankClearRow => exact h.bankClearRowBody
  case bankClearEnd => exact h.bankClearEndBody
  case bankWriterGrant => exact h.grantBody
  case bankWriterOpEnd => exact h.operationEndBody _
  case routePixel => exact h.routePixelBody
  case waitingSpanAdmit => exact h.waitingSpanBody
  case readyQueued => exact h.readyQueuedBody
  case verticalBlankEnd => exact h.blankEndBody

end

/-- What the frame of a command keeps and every command's own part keeps, and what does not look at the queue of commands, every
step keeps. -/
theorem step_keeps (P : State → Prop) (hpending : ∀ s v, P s → P (s.setPending v)) (hclose : ∀ s, P s → P (closeEvent s))
    (hsettle : ∀ s, P s → P (settle s)) (hadvance : ∀ s dt, P s → P (s.advance dt)) (heffect : ∀ c s, P s → P (effectOf c s))
    (s t : State) (h : P s) (hstep : step s = .next t) : P t := by
  unfold step at hstep
  split at hstep
  · injection hstep with hstep
    exact hstep ▸ hsettle s h
  · exact exec_keeps P hclose hsettle hadvance heffect _ _ t (hpending s _ h) hstep

/-- Settles O57: the canonical form as the laws of the banks have it, the row sets and the bounds by `State.Kept`. -/
theorem everyStepKeepsMemoriesRowsAndBounds : Obligations.EveryStepKeepsMemoriesRowsAndBounds := by
  intro s t hstep
  have hkept : ∀ R C : Prop, s.Kept R C → t.Kept R C := fun R C h =>
    step_keeps (State.Kept R C) (fun _ _ hu => hu.of_view hu.lc rfl rfl rfl rfl rfl rfl rfl) (fun _ hu => hu.closeEvent)
      (fun _ hu => hu.settle) (fun _ _ hu => hu.setNow _) (fun c _ hu => hu.effectOf c) s t h hstep
  refine ⟨fun hbanks => ?banks, fun hrows => ?rows, fun hbounds => ?bounds⟩
  case banks =>
    exact step_keeps (fun u => u.fs.Canonical) (fun _ _ hu => hu) (fun u hu => by simpa using hu)
      (fun u hu => settle_canonical u hu) (fun _ _ hu => hu) effectOf_canonical s t hbanks hstep
  case rows =>
    have h := hkept True False ((kept_iff _ _ s).mpr ⟨fun _ => hrows, False.elim⟩)
    exact h.fs.rows trivial
  case bounds =>
    have h := hkept False True ((kept_iff _ _ s).mpr ⟨False.elim, fun _ => hbounds⟩)
    exact ((kept_iff _ _ t).mp h).2 trivial

/-- Settles O58: as the laws of the standing have it, operation by operation. -/
theorem everyStepKeepsStateTableAndRecordInAgreement : Obligations.EveryStepKeepsStateTableAndRecordInAgreement := by
  intro s t hstep hstanding
  refine step_keeps State.Standing ?_ standing_closeEvent standing_settle ?_ effectOf_standing s t hstanding hstep
  · exact fun u v hu => standing_of_view u _ hu rfl rfl rfl rfl rfl rfl
  · exact fun u dt hu => standing_of_view u _ hu rfl rfl rfl rfl rfl rfl

end Sys2Proof.Machine

/-! PROOFS. The queue of commands, the end of an event, and the state after power-on. -/

namespace Sys2Proof.Machine

/-! ## The rows that follow inside an event -/

theorem setHanded_self (s : State) (v : Handed) (h : v = s.handed) : s.setHanded v = s := by
  subst h
  rfl

/-- Each of the five rows that a vertical start finds due takes its own mark away, and no other. -/
theorem flipBody_handed (s : State) : s.flipBody.handed = { s.handed with flip := false } := by
  unfold State.flipBody
  split
  · dsimp only
    (repeat' split) <;> simp
  · rename_i h
    rw [← Bool.eq_false_iff.mpr h]

theorem flipPassedBody_handed (s : State) : s.flipPassedBody.handed = { s.handed with flipPassed := false } := by
  unfold State.flipPassedBody
  split
  · dsimp only
    (repeat' split) <;> simp
  · rename_i h
    rw [← Bool.eq_false_iff.mpr h]

theorem lockLossBody_handed (s : State) : s.lockLossBody.handed = { s.handed with lockLoss := false } := by
  unfold State.lockLossBody
  split
  · simp
  · rename_i h
    rw [← Bool.eq_false_iff.mpr h]

theorem beaconLossBody_handed (s : State) : s.beaconLossBody.handed = { s.handed with beaconLoss := false } := by
  unfold State.beaconLossBody
  split
  · simp
  · rename_i h
    rw [← Bool.eq_false_iff.mpr h]

theorem readyWaitBody_handed (s : State) : s.readyWaitBody.handed = { s.handed with readyWait := false } := by
  unfold State.readyWaitBody
  split
  · dsimp only
    (repeat' split) <;> simp
  · rename_i h
    rw [← Bool.eq_false_iff.mpr h]

/-- What the first five of the rows that follow leave: everything found due is made. -/
def State.foundMade (s : State) : State :=
  closeEvent (closeEvent (closeEvent (closeEvent (closeEvent s.flipBody).flipPassedBody).lockLossBody).beaconLossBody).readyWaitBody

theorem foundMade_handed (s : State) : s.foundMade.handed = Handed.clear := by
  simp only [State.foundMade, closeEvent_frame, readyWaitBody_handed, beaconLossBody_handed, lockLossBody_handed,
    flipPassedBody_handed, flipBody_handed]
  rfl

theorem unraised_foundMade (s : State) : s.foundMade.Unraised := closeEvent_unraised _

/-- Nothing that the end of an event looks at is changed. -/
theorem State.Unraised.of_view {s t : State} (h : s.Unraised) (hp : t.lp = s.lp) (hm : t.mu = s.mu) (hc : t.config = s.config) :
    t.Unraised := by
  obtain ⟨hr, ha, hf⟩ := h
  refine ⟨hp ▸ hr, hp ▸ ha, ?_⟩
  unfold State.refoundDue State.self at hf ⊢
  rw [hm, hc]
  exact hf

theorem State.Unraised.bankClearEndBody {s : State} (h : s.Unraised) : s.bankClearEndBody.Unraised :=
  h.of_view (by simp) (by simp) (by simp)

theorem State.Unraised.joiningPassageBody {s : State} (h : s.Unraised) : s.joiningPassageBody.Unraised := by
  unfold State.joiningPassageBody
  split
  · obtain ⟨hr, ha, -⟩ := h
    exact ⟨hr, ha, rfl⟩
  · exact h

theorem State.Unraised.waitingSpanBody {s : State} (h : s.Unraised) : s.waitingSpanBody.Unraised :=
  h.of_view (by simp) (by simp) (by simp)

theorem State.Unraised.readyQueuedBody {s : State} (h : s.Unraised) : s.readyQueuedBody.Unraised :=
  h.of_view (by simp) (by simp) (by simp)

theorem State.Unraised.grantBody {s : State} (h : s.Unraised) : s.grantBody.Unraised :=
  h.of_view (by simp) (by simp) (by simp)

/-- The last five of the rows that follow raise nothing, so nothing of them waits for the end of an event. -/
theorem settle_eq (s : State) :
    settle s = s.foundMade.bankClearEndBody.joiningPassageBody.waitingSpanBody.readyQueuedBody.grantBody := by
  have h1 := (unraised_foundMade s).bankClearEndBody
  have h2 := h1.joiningPassageBody
  have h3 := h2.waitingSpanBody
  have h4 := h3.readyQueuedBody
  unfold settle
  dsimp only
  change closeEvent (closeEvent (closeEvent (closeEvent (closeEvent
    s.foundMade.bankClearEndBody).joiningPassageBody).waitingSpanBody).readyQueuedBody).grantBody = _
  rw [closeEvent_of_unraised _ h1, closeEvent_of_unraised _ h2, closeEvent_of_unraised _ h3, closeEvent_of_unraised _ h4,
    closeEvent_of_unraised _ h4.grantBody]

/-! ## What is due no longer -/

/-- BANK_CLEAR_END leaves no bank clear that is over. -/
theorem bankClearEndBody_clearOver (s : State) : s.bankClearEndBody.clearOver = false := by
  unfold State.bankClearEndBody
  split
  · rfl
  · rename_i h
    exact Bool.eq_false_iff.mpr h

/-- Once the passage is made, the station listens no more. -/
theorem joiningPassageBody_joiningDue (s : State) : s.joiningPassageBody.joiningDue = false := by
  unfold State.joiningPassageBody
  split
  · rfl
  · rename_i h
    exact Bool.eq_false_iff.mpr h

/-- The spans that find room have entered; either none waits, or the queue is full. -/
theorem waitingSpanBody_admissibleSpans (s : State) : s.waitingSpanBody.admissibleSpans = [] := by
  have hout : s.waitingSpanBody.lc.outbound = s.lc.outbound ++ s.admissibleSpans.map Run.entry := rfl
  have hwait : s.waitingSpanBody.we.waitingSpans = s.we.waitingSpans.drop s.outboundRoom := rfl
  rw [State.admissibleSpans, State.outboundRoom, hout, hwait, List.take_eq_nil_iff, List.drop_eq_nil_iff, List.length_append,
    List.length_map, State.admissibleSpans, List.length_take, State.outboundRoom]
  omega

/-- READY(c) stands in its slot, or was not due. -/
theorem readyQueuedBody_readyDue (s : State) : s.readyQueuedBody.readyDue = none := by
  unfold State.readyQueuedBody
  split
  · exact if_neg fun h => absurd h.2.2 (by simp [State.setSlots])
  · assumption

/-- A requester that holds a request asks for an operation. -/
theorem requested_of_holdsRequest (s : State) (q : Requester) (h : s.holdsRequest q = true) :
    ∃ epoch row start pixels, s.requested q = some (epoch, row, start, pixels) := by
  cases q with
  | stream =>
    obtain ⟨r, hr⟩ := Option.isSome_iff_exists.mp (show s.we.localRun.isSome = true from h)
    exact ⟨_, _, _, _, by rw [State.requested, hr]; rfl⟩
  | localFill =>
    obtain ⟨j, hj⟩ := Option.isSome_iff_exists.mp (show s.we.job.isSome = true from h)
    exact ⟨_, _, _, _, by rw [State.requested, hj]; rfl⟩
  | inbound =>
    rcases hi : s.fs.inbound with _ | ⟨e, rest⟩
    · simp [State.holdsRequest, hi] at h
    · rcases hp : e.paint with ⟨row, start, pixels⟩ | ⟨rect, colour⟩
      · exact ⟨e.epoch, row, start, pixels, by simp [State.requested, hi, hp]⟩
      · exact ⟨e.epoch, rect.y0 + e.rowsDone, rect.x0, List.replicate (rect.x1 + 1 - rect.x0) colour,
          by simp [State.requested, hi, hp]⟩
  | carry =>
    rcases hc : s.fs.carry with _ | ⟨row, rest⟩
    · simp [State.holdsRequest, hc] at h
    · exact ⟨_, row, 0, [], by simp [State.requested, hc]; rfl⟩

/-- The next grant goes to a requester that holds a request. -/
theorem holdsRequest_of_nextRequester (s : State) (q : Requester) (h : s.nextRequester = some q) : s.holdsRequest q = true :=
  List.find?_some h

/-- A granted operation is in progress. -/
theorem beginOperation_operation (s : State) (q : Requester) (h : s.holdsRequest q = true) :
    (s.beginOperation q).fs.operation.isSome = true := by
  obtain ⟨epoch, row, start, pixels, hreq⟩ := requested_of_holdsRequest s q h
  unfold State.beginOperation FrameStore.dirtied
  rw [hreq]
  dsimp only
  (repeat' split) <;> rfl

/-- The writer is busy, or nothing is to be granted. -/
theorem grantBody_grantDue (s : State) : s.grantBody.grantDue = none := by
  unfold State.grantBody
  split
  · rename_i q hq
    have hnext : s.nextRequester = some q := by
      unfold State.grantDue at hq
      split at hq
      · cases hq
      · exact hq
    exact if_pos (beginOperation_operation s q (holdsRequest_of_nextRequester s q hnext))
  · assumption

/-- A grant leaves everything that the other rows look at. -/
theorem grantBody_clear_carry (s : State) : s.grantBody.fs.clear = s.fs.clear ∧ s.grantBody.fs.carry = s.fs.carry := by
  unfold State.grantBody State.beginOperation FrameStore.dirtied
  dsimp only
  (repeat' split) <;> exact ⟨rfl, rfl⟩

theorem readyQueuedBody_outbound_eq (s : State) : s.readyQueuedBody.lc.outbound = s.lc.outbound := by
  unfold State.readyQueuedBody
  split <;> rfl

theorem quiet_settle (s : State) : Quiet (settle s) := by
  have hsettle := settle_eq s
  obtain ⟨u, hu⟩ : ∃ u, u = s.foundMade.bankClearEndBody := ⟨_, rfl⟩
  obtain ⟨w, hw⟩ : ∃ w, w = u.joiningPassageBody.waitingSpanBody := ⟨_, rfl⟩
  have hunraised : (settle s).Unraised := by
    rw [hsettle]
    exact (unraised_foundMade s).bankClearEndBody.joiningPassageBody.waitingSpanBody.readyQueuedBody.grantBody
  obtain ⟨hraised, hafter, hrefound⟩ := hunraised
  rw [← hu, ← hw] at hsettle
  obtain ⟨hclear, hcarry⟩ := grantBody_clear_carry w.readyQueuedBody
  refine ⟨?_, hraised, hafter, hrefound, ?_, ?_, ?_, ?_, ?_⟩
  · rw [hsettle, hw, hu]
    simpa using foundMade_handed s
  · have : (settle s).fs.clear = u.fs.clear := by rw [hsettle, hclear, hw]; simp
    rw [State.clearOver, this, hu]
    exact bankClearEndBody_clearOver _
  · have hfs : (settle s).fs.clear = u.joiningPassageBody.fs.clear := by rw [hsettle, hclear, hw]; simp
    have hmu : (settle s).mu = u.joiningPassageBody.mu := by rw [hsettle, hw]; simp
    rw [State.joiningDue, hfs, hmu]
    exact joiningPassageBody_joiningDue u
  · have hwe : (settle s).we = w.we := by rw [hsettle]; simp
    have hout : (settle s).lc.outbound = w.lc.outbound := by
      rw [hsettle]
      simpa using readyQueuedBody_outbound_eq w
    rw [State.admissibleSpans, State.outboundRoom, hwe, hout, hw]
    exact waitingSpanBody_admissibleSpans _
  · have hcu : (settle s).cu = w.readyQueuedBody.cu := by rw [hsettle]; simp
    have hwe : (settle s).we = w.readyQueuedBody.we := by rw [hsettle]; simp
    have hlc : (settle s).lc = w.readyQueuedBody.lc := by rw [hsettle]; simp
    have hcarry' : (settle s).fs.carry = w.readyQueuedBody.fs.carry := by rw [hsettle, hcarry]
    rw [State.readyDue, State.drained, State.streamPathEmpty, hcu, hwe, hlc, hcarry']
    exact readyQueuedBody_readyDue w
  · rw [hsettle]
    exact grantBody_grantDue _

/-- Settles O2: row by row, what is due is made and stays made. -/
theorem emptyQueueSettles : Obligations.EmptyQueueSettles := by
  refine fun s => ⟨quiet_settle s, fun hempty => ?_⟩
  have hstep : step s = .next (settle s) := by rw [step, hempty]
  exact ⟨hstep, fun hq => by rw [hstep, settle_of_quiet s hq]⟩

/-! ## Every command answers -/

/-- No command's own part touches the queue of commands. -/
theorem effectOf_pending (c : Instr) (s : State) : (effectOf c s).pending = s.pending := by
  have hj : ∀ (judge : State → Judged) (t : Tail) (n : Nat), (∀ u : State, (judge u).1.pending = u.pending) →
      (s.judged (fun s => exactLength t n s judge)).pending = s.pending := by
    intro judge t n hk
    refine judged_keeps (fun u => u.pending = s.pending) _ (fun _ _ _ hu => hu) (fun _ _ hu => hu) (fun u hu => ?_) s rfl
    unfold exactLength
    split
    · exact (hk u).trans hu
    · exact hu
  cases c <;> dsimp only [effectOf]
  case nop => exact hj _ _ _ fun _ => rfl
  case setWindow => exact hj _ _ _ fun u => by simp
  case present => exact hj _ _ _ fun u => by simp
  case leave => exact hj _ _ _ fun u => by simp
  case join => exact hj _ _ _ fun u => by simp
  case softReset => exact hj _ _ _ fun u => by simp
  case configEnd => exact hj _ _ _ fun u => by simp
  case fill =>
    refine judged_keeps (fun u => u.pending = s.pending) _ (fun _ _ _ hu => hu) (fun _ _ hu => hu) (fun u hu => ?_) s rfl
    unfold exactLength
    split
    · simpa using hu
    · exact hu
  case configRecord =>
    refine judged_keeps (fun u => u.pending = s.pending) _ (fun _ _ _ hu => hu) (fun _ _ hu => hu) (fun u hu => ?_) s rfl
    split
    · simpa using hu
    · exact hu
  case unknown => exact judged_keeps (fun u => u.pending = s.pending) _ (fun _ _ _ hu => hu) (fun _ _ hu => hu) (fun _ hu => hu) s rfl
  all_goals simp

/-- Settles O3: every command ends as an event ends, and no part of it touches the queue of commands. -/
theorem everyCommandAnswersNext : Obligations.EveryCommandAnswersNext := by
  intro c s
  rw [exec_eq]
  split
  · refine ⟨_, rfl, ?_, closeEvent_unraised _⟩
    rw [(closeEvent_frame _).2.2.2.2.2.2.2, effectOf_pending]
    simp
  · refine ⟨_, rfl, ?_, closeEvent_unraised _⟩
    rw [(closeEvent_frame _).2.2.2.2.2.2.2, effectOf_pending]

/-- Settles O1: by the definition of a step. -/
theorem stepRunsFrontCommand : Obligations.StepRunsFrontCommand := fun _ _ _ => rfl

/-! ## The event queue and the state after power-on -/

/-- Settles O13: by the room that the queue has. -/
theorem eventQueueAdmitsUpTo32 : Obligations.EventQueueAdmitsUpTo32 := by
  intro p e
  have hcap : Config.eventCapacity = 32 := rfl
  refine ⟨fun hroom => ?_, fun hfull => ?_⟩
  · rw [Port.enqueue, hcap, if_pos hroom]
  · rw [Port.enqueue, hcap, if_neg (Nat.not_lt.mpr hfull), saturate]

theorem standing_reset : State.reset.Standing where
  map := rfl
  loader := nofun
  low := nofun
  record := rfl
  synced := nofun
  phase := by decide
  self := nofun
  nested := nofun
  flight := nofun
  flip := nofun

/-- Settles O59: power-on leaves every store empty. -/
theorem resetMeetsEveryInvariant : Obligations.ResetMeetsEveryInvariant :=
  ⟨⟨wf_nil, wf_nil⟩, ⟨.nil, .nil⟩, by decide, standing_reset, by decide⟩

/-- Settles O4: field by field of the reset tables. -/
theorem resetLeavesThePowerOnValues : Obligations.ResetLeavesThePowerOnValues := by
  have haddressees : ∀ x : Station, State.reset.lc.addressees[x.val] = { attempts := 0, expiry := none } := by
    intro x
    show (Vector.replicate 16 Retry.fresh)[x.val] = _
    rw [Vector.getElem_replicate]
    rfl
  unfold Obligations.ResetLeavesThePowerOnValues
  simp only [haddressees, implies_true, true_and]
  decide

end Sys2Proof.Machine

/-! PROOFS. The Local Port (chapter 9): what the bytes of a record spell, and the transactions that read. -/

namespace Sys2Proof.Machine

/-! ## A command by its own part -/

/-- A command that is an event of its own and raises nothing answers its own part. -/
theorem exec_of_effect {c : Instr} {dt : Nat} {s t : State} (hc : timeOf c = some dt) (hq : Quiet s)
    (hb : effectOf c (s.advance dt) = t) (ht : t.Unraised) : exec c s = .next t := by
  rw [exec_eq, hc]
  exact event_of_effect dt _ s t hq hb ht

/-- A command that is an event of its own and raises one record answers its own part, the record in the queue. -/
theorem exec_of_effect_raise {c : Instr} {dt : Nat} {s t : State} {e : EventRecord} (hc : timeOf c = some dt) (hq : Quiet s)
    (hb : effectOf c (s.advance dt) = t.raise e) (ht : t.Unraised) :
    exec c s = .next ((t.setLp (t.lp.enqueue e)).setFree (t.free + 1)) := by
  rw [exec_eq, hc]
  exact event_of_effect_raise dt _ s t e hq hb ht

/-- A row that follows inside an event and raises nothing answers its own part. -/
theorem exec_of_followOn {c : Instr} {s t : State} (hc : timeOf c = none) (hb : effectOf c s = t) (ht : t.Unraised) :
    exec c s = .next t := by
  rw [exec_eq, hc]
  exact followOn_of_effect _ s t hb ht

/-- A command whose own part does nothing lets its time pass. -/
theorem exec_of_idle {c : Instr} {dt : Nat} {s : State} (hc : timeOf c = some dt) (hq : Quiet s)
    (hb : effectOf c (s.advance dt) = s.advance dt) : exec c s = .next { s with now := s.now + dt } :=
  exec_of_effect hc hq hb (unraised_of_quiet s hq)

/-! ## Bytes (11_formats.md) -/

@[simp] theorem natToBytes_length (n v : Nat) : (natToBytes n v).length = n := by
  induction n with
  | zero => rfl
  | succ n ih => simp [natToBytes, ih]

theorem natToBytes_one (v : Nat) : natToBytes 1 v = [BitVec.ofNat 8 v] := by
  rw [natToBytes, natToBytes, Nat.pow_zero, Nat.div_one]

theorem foldl_bytes_eq (bs : List Byte) (n : Nat) :
    bs.foldl (fun n b => n * 256 + b.toNat) n = n * 256 ^ bs.length + bytesToNat bs := by
  unfold bytesToNat
  induction bs generalizing n with
  | nil => simp
  | cons b bs ih =>
    rw [List.foldl_cons, List.foldl_cons, ih, ih (0 * 256 + b.toNat), List.length_cons, Nat.pow_succ]
    ring

theorem bytesToNat_cons (b : Byte) (bs : List Byte) : bytesToNat (b :: bs) = b.toNat * 256 ^ bs.length + bytesToNat bs := by
  rw [bytesToNat, List.foldl_cons, foldl_bytes_eq, Nat.zero_mul, Nat.zero_add]

/-- A number written in `n` bytes reads back without what did not fit. -/
theorem bytesToNat_natToBytes (n v : Nat) : bytesToNat (natToBytes n v) = v % 256 ^ n := by
  induction n with
  | zero => rw [Nat.pow_zero, Nat.mod_one]; rfl
  | succ n ih =>
    rw [natToBytes, bytesToNat_cons, natToBytes_length, ih, BitVec.toNat_ofNat, Nat.mod_pow_succ (x := v) (b := 256), Nat.add_comm,
      Nat.mul_comm (256 ^ n)]

/-- What is below 256ⁿ fits in `n` bytes. -/
theorem bytesToNat_natToBytes_of_lt {n v : Nat} (h : v < 256 ^ n) : bytesToNat (natToBytes n v) = v := by
  rw [bytesToNat_natToBytes, Nat.mod_eq_of_lt h]

/-- Sixteen bits fit in two bytes. -/
theorem bytesToNat_two (v : BitVec 16) : bytesToNat (natToBytes 2 v.toNat) = v.toNat := bytesToNat_natToBytes_of_lt v.isLt

/-- Thirty-two bits fit in four bytes. -/
theorem bytesToNat_four (v : BitVec 32) : bytesToNat (natToBytes 4 v.toNat) = v.toNat := bytesToNat_natToBytes_of_lt v.isLt

/-- A one-byte field stands in its byte. -/
theorem natToBytes_one_head (v : Nat) : (natToBytes 1 v)[0]? = some (BitVec.ofNat 8 v) := by
  rw [natToBytes_one]
  rfl

/-! ## READ_STATUS (R192 to R194) -/

theorem statusBytes_length (s : State) : s.statusBytes.length = 31 := by simp [State.statusBytes]

/-- The one-byte fields of the status record. -/
theorem statusBytes_singles (s : State) :
    s.statusBytes[0]? = some (match s.config with | some c => BitVec.ofNat 8 c.map.self.val | none => 0xFF#8) ∧
    s.statusBytes[1]? = some (BitVec.ofNat 8 s.mu.state.code) ∧
    s.statusBytes[2]? = some (BitVec.ofNat 8 s.mu.causeCode) ∧
    s.statusBytes[3]? = some (BitVec.ofNat 8 ((if s.mu.synced then 1 else 0) + (if s.cu.record.isSome then 2 else 0) +
      (if s.pendingFlip.isSome then 4 else 0))) ∧
    s.statusBytes[4]? = some (BitVec.ofNat 8 s.cu.phase.code) ∧
    s.statusBytes[19]? = some (match s.tu.source with | some x => BitVec.ofNat 8 x.val | none => 0xFF#8) ∧
    s.statusBytes[20]? = some (BitVec.ofNat 8 s.tu.lock.code) ∧
    s.statusBytes[25]? = some (BitVec.ofNat 8 s.lc.outbound.length) ∧
    s.statusBytes[26]? = some (BitVec.ofNat 8 s.fs.inbound.length) ∧
    s.statusBytes[29]? = some (BitVec.ofNat 8 s.fs.showState.code) ∧
    s.statusBytes[30]? = some (BitVec.ofNat 8 s.lp.events.length) := by
  simp only [State.statusBytes, natToBytes_one]
  refine ⟨?_, ?_, ?_, ?_, ?_, ?_, ?_, ?_, ?_, ?_, ?_⟩
  case refine_1 => cases s.config <;> simp
  case refine_6 => cases s.tu.source <;> simp
  all_goals simp

/-- The fields of the status record that are wider than a byte. -/
theorem statusBytes_fields (s : State) :
    (s.statusBytes.drop 5).take 2 = natToBytes 2 (s.cu.record.elim 0 (fun r => r.collecting.toNat)) ∧
    (s.statusBytes.drop 7).take 2 = natToBytes 2 (s.cu.record.elim 0 (fun r => r.required.toNat)) ∧
    (s.statusBytes.drop 9).take 2 = natToBytes 2 (s.cu.record.elim 0 (fun r => r.ready.toNat)) ∧
    (s.statusBytes.drop 11).take 2 = natToBytes 2 (s.pendingFlip.elim 0 (fun l => l.epoch.toNat)) ∧
    (s.statusBytes.drop 13).take 4 = natToBytes 4 (s.pendingFlip.elim 0 (fun l => l.flipFrame.toNat)) ∧
    (s.statusBytes.drop 17).take 2 = natToBytes 2 s.mu.members.toNat ∧
    (s.statusBytes.drop 21).take 4 = natToBytes 4 s.tu.count.toNat ∧
    (s.statusBytes.drop 27).take 2 = natToBytes 2 s.fs.carry.length := by
  refine ⟨?_, ?_, ?_, ?_, ?_, ?_, ?_, ?_⟩ <;> simp [State.statusBytes, List.drop_append, List.drop_of_length_le]

/-- Two neighbouring fields are read as one. -/
theorem take_drop_two_fields {bs x y : List Byte} {i m n : Nat} (hx : (bs.drop i).take m = x) (hy : (bs.drop (i + m)).take n = y) :
    (bs.drop i).take (m + n) = x ++ y := by
  rw [List.take_add, hx, List.drop_drop, hy]

theorem readStatusBody_of_portReady (low : Nat) (s : State) (h : s.portReady = true) :
    s.readStatusBody low = (s.openPort (.response (s.now + low)) s.statusBytes).setResult .ok := if_pos h

/-- Settles O9: the record is laid out field by field, each of a fixed number of bytes. -/
theorem readStatusReturnsTheStatusRecord : Obligations.ReadStatusReturnsTheStatusRecord := by
  refine ⟨fun dt low s hq hp => ?command, fun s => ?record⟩
  case command =>
    exact exec_of_effect (c := .readStatus ⟨dt, low⟩) rfl hq (readStatusBody_of_portReady low _ hp) (unraised_of_quiet s hq)
  case record =>
    obtain ⟨h0, h1, h2, h3, h4, h19, h20, h25, h26, h29, h30⟩ := statusBytes_singles s
    obtain ⟨h5, h7, h9, h11, h13, h17, h21, h27⟩ := statusBytes_fields s
    refine ⟨statusBytes_length s, ?_, h1, h2, h3, h4, fun hr => ?_, fun r hr => ?_, fun hl => ?_, fun l hl => ?_, ?_, ?_, h20, ?_,
      h25, h26, ?_, h29, h30⟩
    · exact h0.trans (by cases s.config <;> rfl)
    · rw [hr] at h5 h7 h9
      have h79 := take_drop_two_fields (i := 7) (m := 2) (n := 2) h7 h9
      exact (take_drop_two_fields (i := 5) (m := 2) (n := 4) h5 h79).trans rfl
    · rw [hr] at h5 h7 h9
      rw [h5, h7, h9]
      exact ⟨bytesToNat_two _, bytesToNat_two _, bytesToNat_two _⟩
    · rw [hl] at h11 h13
      exact (take_drop_two_fields (i := 11) (m := 2) (n := 4) h11 h13).trans rfl
    · rw [hl] at h11 h13
      rw [h11, h13]
      exact ⟨bytesToNat_two _, bytesToNat_four _⟩
    · rw [h17, bytesToNat_two]
    · exact h19.trans (by cases s.tu.source <;> rfl)
    · rw [h21, bytesToNat_four]
    · exact (congrArg bytesToNat h27).trans (bytesToNat_natToBytes 2 _)

/-! ## READ_EVENT (R188) -/

theorem readEventBody_of_portReady (s : State) (h : s.portReady = true) :
    s.readEventBody =
      s.openPort (.readEvent s.lp.events.head?) ((s.lp.events.head?).getD (EventRecord.only .absent)).bytes := if_pos h

/-- The release of a READ_EVENT: a record clocked whole leaves the queue (R188). -/
theorem readEventReleaseBody_of_readEvent (clocked : Nat) (s : State) (copied : Option EventRecord)
    (h : s.lp.transaction = .readEvent copied) :
    s.readEventReleaseBody clocked =
      { s with lp := { s.lp with transaction := .idle,
                                 lastResult := if 11 ≤ clocked then .ok else .badLength,
                                 events := if 11 ≤ clocked ∧ copied ≠ none then s.lp.events.drop 1 else s.lp.events } } := by
  unfold State.readEventReleaseBody
  rw [h]
  by_cases hc : 11 ≤ clocked
  · simp only [hc, true_and]
    cases copied <;> rfl
  · simp only [hc, false_and]
    rfl

/-- The fields of an event record stand where 11_formats.md, section 11.4, puts them. -/
theorem eventBytes_fields (e : EventRecord) :
    e.bytes.length = 11 ∧ e.bytes[0]? = some (BitVec.ofNat 8 e.kind.code) ∧
    e.bytes[1]? = some (BitVec.ofNat 8 ((if e.epoch.isSome then 1 else 0) + (if e.station.isSome then 2 else 0) +
      (if e.stations.isSome then 4 else 0) + (if e.value.isSome then 8 else 0))) ∧
    bytesToNat ((e.bytes.drop 2).take 2) = e.epoch.elim 0 BitVec.toNat ∧
    e.bytes[4]? = some (BitVec.ofNat 8 (e.station.elim 0 Fin.val)) ∧
    bytesToNat ((e.bytes.drop 5).take 2) = e.stations.elim 0 BitVec.toNat ∧
    bytesToNat ((e.bytes.drop 7).take 4) = e.value.elim 0 BitVec.toNat := by
  have h16 : ∀ v : Option (BitVec 16), v.elim 0 BitVec.toNat < 256 ^ 2 := by
    rintro (_ | v)
    · exact Nat.pow_pos (by decide)
    · exact v.isLt
  have h32 : e.value.elim 0 BitVec.toNat < 256 ^ 4 := by
    rcases e.value with _ | v
    · exact Nat.pow_pos (by decide)
    · exact v.isLt
  exact ⟨rfl, natToBytes_one_head _, natToBytes_one_head _, bytesToNat_natToBytes_of_lt (h16 e.epoch), natToBytes_one_head _,
    bytesToNat_natToBytes_of_lt (h16 e.stations), bytesToNat_natToBytes_of_lt h32⟩

/-- Settles O10: the layout of a record, the numbers of its named values, and the two ends of the transaction. -/
theorem readEventRemovesOnlyAWholeRecord : Obligations.ReadEventRemovesOnlyAWholeRecord := by
  refine ⟨eventBytes_fields, by decide, by decide, fun x e => ⟨rfl, rfl⟩, by decide, fun dt clocked s hq =>
    ⟨fun hp => ?read, fun copied ht => ?release⟩⟩
  case read =>
    exact exec_of_effect (c := .readEvent dt) rfl hq (readEventBody_of_portReady _ hp) (unraised_of_quiet s hq)
  case release =>
    exact exec_of_effect (c := .readEventRelease dt clocked) rfl hq
      (readEventReleaseBody_of_readEvent clocked (s.advance dt) copied ht) (unraised_of_quiet s hq)

/-! ## READ_COUNTERS (R191) -/

theorem readCountersBody_of_portReady (s : State) (h : s.portReady = true) :
    s.readCountersBody = s.openPort (.readCounters s.lp.counters) s.lp.counters.bytes := if_pos h

/-- A counter never falls below what its copy left of it. -/
theorem lessCopied_toNat (c copied : BitVec 16) : (lessCopied c copied).toNat = c.toNat - copied.toNat := by
  have hc := c.isLt
  rw [lessCopied, BitVec.toNat_ofNat, Nat.mod_eq_of_lt (by omega)]

/-- The release of a READ_COUNTERS: with all 14 bytes clocked each counter loses the value copied for it (R191). -/
theorem readCountersReleaseBody_of_readCounters (clocked : Nat) (s : State) (k : Counters)
    (h : s.lp.transaction = .readCounters k) :
    s.readCountersReleaseBody clocked =
      { s with lp := { s.lp with transaction := .idle,
                                 lastResult := if 14 ≤ clocked then .ok else .badLength,
                                 counters := if 14 ≤ clocked then s.lp.counters.minus k else s.lp.counters } } := by
  unfold State.readCountersReleaseBody
  rw [h]
  by_cases hc : 14 ≤ clocked
  · simp only [if_pos hc]
    rfl
  · simp only [if_neg hc]
    rfl

/-- Settles O11: the layout of the copy, and a subtraction that cannot go below 0. -/
theorem readCountersSubtractsTheCopy : Obligations.ReadCountersSubtractsTheCopy := by
  refine ⟨fun k => ⟨rfl, ?bytes⟩, fun dt clocked s hq => ⟨fun hp => ?read, fun k ht => ⟨s.lp.counters.minus k, ?release,
    lessCopied_toNat _ _, lessCopied_toNat _ _, lessCopied_toNat _ _, lessCopied_toNat _ _, lessCopied_toNat _ _,
    lessCopied_toNat _ _, lessCopied_toNat _ _⟩⟩⟩
  case bytes =>
    have hsplit : (List.range 7).map (fun i => bytesToNat ((k.bytes.drop (2 * i)).take 2)) =
        [natToBytes 2 k.unownedPixels.toNat, natToBytes 2 k.overrunBytes.toNat, natToBytes 2 k.spansLost.toNat,
          natToBytes 2 k.staleEntries.toNat, natToBytes 2 k.spoilsSeen.toNat, natToBytes 2 k.lateFlips.toNat,
          natToBytes 2 k.eventsLost.toNat].map bytesToNat := rfl
    rw [hsplit]
    simp only [List.map_cons, List.map_nil, bytesToNat_two]
  case read =>
    exact exec_of_effect (c := .readCounters dt) rfl hq (readCountersBody_of_portReady _ hp) (unraised_of_quiet s hq)
  case release =>
    exact exec_of_effect (c := .readCountersRelease dt clocked) rfl hq
      (readCountersReleaseBody_of_readCounters clocked (s.advance dt) k ht) (unraised_of_quiet s hq)

/-! ## READ_FRONT (R135, R182) -/

/-- READ_FRONT as it is judged: the transaction it leaves, and its result. -/
theorem readFrontBody_of_portReady (low : Nat) (params : List Byte) (s : State) (h : s.portReady = true) :
    s.readFrontBody low params =
      s.setLp { s.lp with
          miso := s.lp.lastResult.code :: List.replicate (min params.length 8) 0x00#8,
          transaction :=
            if params.length < 8 then .idle
            else match s.config with
              | some c =>
                if c.map.ownTile.holdsRect (rectOfBytes params) then
                  .readFront (rectOfBytes params) (rectOfBytes params).y0 (s.now + low)
                else .response (s.now + low)
              | none => .response (s.now + low),
          lastResult :=
            if params.length < 8 then .badLength
            else match s.config with
              | some c => if c.map.ownTile.holdsRect (rectOfBytes params) then .ok else .badParam
              | none => .wrongState } := by
  unfold State.readFrontBody
  rw [if_pos h]
  by_cases hl : params.length < 8
  · simp only [if_pos hl, Nat.min_eq_left (Nat.le_of_lt hl)]
    rfl
  · simp only [if_neg hl, Nat.min_eq_right (Nat.not_lt.mp hl)]
    cases s.config with
    | none => rfl
    | some c =>
      dsimp only
      split <;> rfl

theorem readFrontRowBody_of_low (s : State) (rect : Rect) (row rise : Nat) (ht : s.lp.transaction = .readFront rect row rise)
    (h : row ≤ rect.y1 ∧ s.now < rise) :
    s.readFrontRowBody =
      s.setLp { s.lp with
        miso := s.lp.miso ++ ((List.range (rect.x1 + 1 - rect.x0)).map (fun i => s.bankPixel s.fs.front row (rect.x0 + i))).flatMap
          pixelBytes,
        transaction := .readFront rect (row + 1) rise } := by
  unfold State.readFrontRowBody
  rw [ht]
  exact if_pos h

/-- After the last row, and once CS_N has risen, nothing is read. -/
theorem readFrontRowBody_of_over (s : State) (rect : Rect) (row rise : Nat) (ht : s.lp.transaction = .readFront rect row rise)
    (h : rect.y1 < row ∨ rise ≤ s.now) : s.readFrontRowBody = s := by
  unfold State.readFrontRowBody
  rw [ht]
  exact if_neg (by omega)

/-- Settles O12: by the length, the map and the rectangle; then row by row while CS_N is low. -/
theorem readFrontIsJudgedThenReadRowByRow : Obligations.ReadFrontIsJudgedThenReadRowByRow := by
  refine ⟨fun dt low params s hq hp => ?judged, fun dt s rect row rise hq ht => ⟨fun hrow hrise => ?row, fun hover => ?ended⟩⟩
  case judged =>
    exact exec_of_effect (c := .readFront ⟨dt, low⟩ params) rfl hq (readFrontBody_of_portReady low params (s.advance dt) hp)
      (unraised_of_quiet s hq)
  case row =>
    refine exec_of_effect (c := .readFrontRow dt) rfl hq
      ((readFrontRowBody_of_low (s.advance dt) rect row rise ht ⟨hrow, hrise⟩).trans ?_) (unraised_of_quiet s hq)
    rw [List.flatMap_map]
    rfl
  case ended =>
    exact exec_of_idle (c := .readFrontRow dt) rfl hq (readFrontRowBody_of_over (s.advance dt) rect row rise ht hover)

/-! ## Transactions that do nothing (R173, R176, R195) -/

/-- CS_N is low in the transactions that have a row for its rise, and in the others until their time (assumption 4). -/
theorem csLow_iff (s : State) :
    s.csLow = true ↔
      (∃ t, s.lp.transaction = .stream t) ∨ (∃ e, s.lp.transaction = .readEvent e) ∨
        (∃ k, s.lp.transaction = .readCounters k) ∨ s.lp.transaction = .abandoned none ∨
        ∃ rise, s.now < rise ∧
          (s.lp.transaction = .response rise ∨ s.lp.transaction = .abandoned (some rise) ∨
            ∃ rect row, s.lp.transaction = .readFront rect row rise) := by
  unfold State.csLow Transaction.lowAt
  cases s.lp.transaction with
  | abandoned rise => cases rise <;> simp [Transaction.rise]
  | _ => simp [Transaction.rise]

/-- MISO is driven while CS_N is low, RESET_N is high and no reset has abandoned the transaction. -/
theorem misoDriven_iff (s : State) :
    s.misoDriven = true ↔ s.csLow = true ∧ s.sl.resetLow = false ∧ ∀ rise, s.lp.transaction ≠ .abandoned rise := by
  have habandoned : s.lp.transaction.isAbandoned = false ↔ ∀ rise, s.lp.transaction ≠ .abandoned rise := by
    cases s.lp.transaction <;> simp [Transaction.isAbandoned]
  rw [State.misoDriven, Bool.and_eq_true, Bool.and_eq_true, Bool.not_eq_true', Bool.not_eq_true', habandoned, and_assoc]

theorem portReady_of_low (s : State) (h : s.sl.resetLow = true) : ¬s.portReady = true := by
  simp [State.portReady, h]

/-- Of a transaction that a reset has abandoned, the rows inside it do nothing. -/
theorem streamPixelByteBody_of_abandoned (value : Byte) (s : State) (rise : Option Nat)
    (h : s.lp.transaction = .abandoned rise) : s.streamPixelByteBody value = s := by
  unfold State.streamPixelByteBody
  rw [h]

theorem readFrontRowBody_of_abandoned (s : State) (rise : Option Nat) (h : s.lp.transaction = .abandoned rise) :
    s.readFrontRowBody = s := by
  unfold State.readFrontRowBody
  rw [h]

/-- Of such a transaction the release only raises CS_N. -/
theorem streamReleaseBody_of_abandoned (s : State) (rise : Option Nat) (h : s.lp.transaction = .abandoned rise) :
    s.streamReleaseBody = s.setLp { s.lp with transaction := .idle } := by
  unfold State.streamReleaseBody
  rw [h]

theorem readEventReleaseBody_of_abandoned (clocked : Nat) (s : State) (rise : Option Nat)
    (h : s.lp.transaction = .abandoned rise) :
    s.readEventReleaseBody clocked = s.setLp { s.lp with transaction := .idle } := by
  unfold State.readEventReleaseBody
  rw [h]

theorem readCountersReleaseBody_of_abandoned (clocked : Nat) (s : State) (rise : Option Nat)
    (h : s.lp.transaction = .abandoned rise) :
    s.readCountersReleaseBody clocked = s.setLp { s.lp with transaction := .idle } := by
  unfold State.readCountersReleaseBody
  rw [h]

/-- Settles O8: by what the lines read, and by what each command asks of the port before it does anything. -/
theorem unknownEmptyAndResetTransactionsDoNothing : Obligations.UnknownEmptyAndResetTransactionsDoNothing := by
  refine ⟨fun s => ⟨misoDriven_iff s, csLow_iff s⟩, fun dt clocked value s c rise hq ht => ⟨?inside, ?release⟩,
    fun dt code tail clocks s hq hp => ⟨?unknown, ?empty⟩, fun dt s c hq hlow hc => ?low⟩
  case inside =>
    rintro (rfl | rfl)
    · exact exec_of_idle (c := .streamPixelByte dt value) rfl hq (streamPixelByteBody_of_abandoned value _ rise ht)
    · exact exec_of_idle (c := .readFrontRow dt) rfl hq (readFrontRowBody_of_abandoned _ rise ht)
  case release =>
    have hu := unraised_of_quiet s hq
    rintro (rfl | rfl | rfl)
    · exact exec_of_effect (c := .streamRelease dt) rfl hq (streamReleaseBody_of_abandoned _ rise ht) hu
    · exact exec_of_effect (c := .readEventRelease dt clocked) rfl hq (readEventReleaseBody_of_abandoned clocked _ rise ht) hu
    · exact exec_of_effect (c := .readCountersRelease dt clocked) rfl hq (readCountersReleaseBody_of_abandoned clocked _ rise ht) hu
  case unknown =>
    have hbody : (s.advance dt).judged (fun u => (u, .unknown)) = s.answered dt .unknown := judged_advance _ s dt hp
    exact exec_of_effect (c := .unknown dt code tail) rfl hq hbody (unraised_of_quiet s hq)
  case empty =>
    exact exec_of_effect (c := .emptyTransaction dt clocks) rfl hq (if_pos hp) (unraised_of_quiet s hq)
  case low =>
    have hbusy : ¬(s.advance dt).portReady = true := portReady_of_low _ hlow
    obtain ⟨tail, rfl | rfl | rfl | rfl | rfl | rfl | rfl | rfl | rfl | ⟨code, rfl⟩⟩ | rfl | rfl | ⟨low, rfl⟩ | rfl | rfl |
      ⟨low, params, rfl⟩ | ⟨clocks, rfl⟩ := hc
    all_goals exact exec_of_idle rfl hq (if_neg hbusy)

end Sys2Proof.Machine

/-! PROOFS. The host's commands: start-up and configuration (chapter 10), window and stream (chapter 7), PRESENT (chapter 5), LEAVE
and JOIN (chapter 3). -/

namespace Sys2Proof.Machine

/-! ## Commands judged at the rise of CS_N -/

/-- A command that is refused answers its result and changes nothing else. -/
theorem exec_of_refused {c : Instr} {dt : Nat} {s : State} {judge : State → Judged} {r : Result} (hc : timeOf c = some dt)
    (he : effectOf c = State.judged judge) (hq : Quiet s) (hp : s.portReady = true)
    (hj : judge (s.opened dt) = (s.opened dt, r)) : exec c s = .next (s.answered dt r) := by
  rw [exec_eq, hc, he]
  exact event_judged_of_unraised dt judge s _ r hq hp hj (unraised_opened s dt hq)

/-- A command that is taken and raises nothing answers the state judged with its result. -/
theorem exec_of_taken {c : Instr} {dt : Nat} {s t : State} {judge : State → Judged} {r : Result} (hc : timeOf c = some dt)
    (he : effectOf c = State.judged judge) (hq : Quiet s) (hp : s.portReady = true) (hj : judge (s.opened dt) = (t, r))
    (ht : t.Unraised) : exec c s = .next (t.setResult r) := by
  rw [exec_eq, hc, he]
  exact event_judged_of_unraised dt judge s t r hq hp hj ht

theorem effectOf_setWindow (dt : Nat) (tail : Tail) :
    effectOf (.setWindow dt tail) = State.judged (fun s => exactLength tail 8 s (State.judgeSetWindow tail.bytes)) := rfl

theorem effectOf_fill (dt : Nat) (tail : Tail) :
    effectOf (.fill dt tail) = State.judged (fun s => exactLength tail (8 + s.format.bytes) s (State.judgeFill tail.bytes)) := rfl

theorem effectOf_present (dt : Nat) (tail : Tail) :
    effectOf (.present dt tail) = State.judged (fun s => exactLength tail 0 s State.judgePresent) := rfl

theorem effectOf_leave (dt : Nat) (tail : Tail) :
    effectOf (.leave dt tail) = State.judged (fun s => exactLength tail 0 s State.judgeLeave) := rfl

theorem effectOf_join (dt : Nat) (tail : Tail) :
    effectOf (.join dt tail) = State.judged (fun s => exactLength tail 0 s State.judgeJoin) := rfl

theorem effectOf_softReset (dt : Nat) (tail : Tail) :
    effectOf (.softReset dt tail) = State.judged (fun s => exactLength tail 0 s State.judgeSoftReset) := rfl

/-- The command byte alone passes the length test of a command without parameters. -/
theorem exactLength_alone (s : State) (judge : State → Judged) : exactLength ⟨[], false⟩ 0 s judge = judge s :=
  exactLength_of_length _ _ _ _ ⟨rfl, rfl⟩

/-- Anything after the command byte fails it. -/
theorem exactLength_of_more {tail : Tail} (s : State) (judge : State → Judged) (h : tail ≠ ⟨[], false⟩) :
    exactLength tail 0 s judge = (s, .badLength) :=
  if_neg fun hl => h ((lengthIs_zero_iff tail).mp hl)

/-! ## The EEPROM (R198 to R202) -/

/-- An attempt of the two-wire controller: the first follows the bus recovery (R197, R198). -/
theorem eepromAttemptBody_of_attempting (missing : Option AckBit) (n : Nat) (s : State)
    (h : s.sl.loader = .attempt n ∨ (n = 1 ∧ s.sl.loader = .recovery)) :
    s.eepromAttemptBody missing = if missing.isSome then s.failAttempt n else s.setLoader .reading := by
  unfold State.eepromAttemptBody
  obtain h | ⟨rfl, h⟩ := h <;> rw [h]

theorem eepromExpiryBody_of_waiting (s : State) (n expiry : Nat) (h : s.sl.loader = .waiting n expiry) :
    s.eepromExpiryBody = if expiry ≤ s.now then s.setLoader (.attempt (n + 1)) else s := by
  unfold State.eepromExpiryBody
  rw [h]

/-- A station in AWAIT_CONFIG founds nothing. -/
theorem unraised_setMu_awaitConfig (s : State) (h : s.Unraised) : (s.setMu (Membership.reset .awaitConfig)).Unraised := by
  obtain ⟨hraised, hafter, -⟩ := h
  exact ⟨hraised, hafter, rfl⟩

/-- Settles O15: by the loader's state, the missing acknowledge and the number of the attempt. -/
theorem eepromAttemptReadsWaitsOrGivesUp : Obligations.EepromAttemptReadsWaitsOrGivesUp := by
  refine ⟨fun dt n s hq hl => ?attempt, fun dt n expiry s hq hl => ?expiry⟩
  case attempt =>
    have hu : (s.advance dt).Unraised := unraised_of_quiet s hq
    have hbody := fun missing => eepromAttemptBody_of_attempting missing n (s.advance dt) hl
    refine ⟨exec_of_effect (c := .eepromAttempt dt none) rfl hq (hbody none) hu, fun bit => ⟨fun hn => ?_, fun hn => ?_⟩⟩
    · exact exec_of_effect (c := .eepromAttempt dt (some bit)) rfl hq ((hbody (some bit)).trans (if_neg (Nat.not_le.mpr hn))) hu
    · exact exec_of_effect (c := .eepromAttempt dt (some bit)) rfl hq ((hbody (some bit)).trans (if_pos hn))
        (unraised_setMu_awaitConfig ((s.advance dt).setLoader .off) hu)
  case expiry =>
    have hbody := eepromExpiryBody_of_waiting (s.advance dt) n expiry hl
    refine ⟨fun hle => ?_, fun hlt => ?_⟩
    · exact exec_of_effect (c := .eepromRetryWaitExpiry dt) rfl hq (hbody.trans (if_pos hle)) (unraised_of_quiet s hq)
    · exact exec_of_idle (c := .eepromRetryWaitExpiry dt) rfl hq (hbody.trans (if_neg (Nat.not_le.mpr hlt)))

/-- A byte of an incomplete image (R199). -/
theorem eepromByteBody_of_incomplete (value : Byte) (s : State) (h : s.sl.loader = .reading)
    (hi : completeImage (s.sl.image ++ [value]) = none) :
    s.eepromByteBody value =
      if 1024 ≤ (s.sl.image ++ [value]).length then s.failLoad .noEnd
      else s.setSl { s.sl with image := s.sl.image ++ [value] } := by
  unfold State.eepromByteBody
  rw [h]
  dsimp only
  rw [hi]
  rfl

/-- The byte that completes the image has it validated (R199, R200). -/
theorem eepromByteBody_of_complete (value : Byte) (s : State) (records : List ConfigRecord) (image : List Byte)
    (h : s.sl.loader = .reading) (himage : image = s.sl.image ++ [value]) (hi : completeImage image = some records) :
    s.eepromByteBody value =
      s.conclude (validate records (image.take (image.length - 2))
        (BitVec.ofNat 16 (bytesToNat (image.drop (image.length - 2))))) := by
  subst himage
  unfold State.eepromByteBody
  rw [h]
  dsimp only
  rw [hi]

/-- Settles O16: by whether the image is complete, and by the verdict on a complete one. -/
theorem eepromByteGrowsOrConcludesTheImage : Obligations.EepromByteGrowsOrConcludesTheImage := by
  intro dt value s image hq hl himage
  have hu : (s.advance dt).Unraised := unraised_of_quiet s hq
  refine ⟨fun hnone hlen => ?grows, fun r hr => ?fault, fun records c hsome hc => ?loaded⟩
  case grows =>
    subst himage
    exact exec_of_effect (c := .eepromByte dt value) rfl hq
      ((eepromByteBody_of_incomplete value (s.advance dt) hl hnone).trans (if_neg (Nat.not_le.mpr hlen))) hu
  case fault =>
    have hbody : (s.advance dt).eepromByteBody value = (s.advance dt).failLoad r := by
      obtain ⟨hnone, hlen, rfl⟩ | ⟨records, hsome, herror⟩ := hr
      · subst himage
        exact (eepromByteBody_of_incomplete value (s.advance dt) hl hnone).trans (if_pos hlen)
      · rw [eepromByteBody_of_complete value (s.advance dt) records image hl himage hsome, herror]
        rfl
    exact exec_of_effect_raise (c := .eepromByte dt value) rfl hq (hbody.trans (failLoad_eq (s.advance dt) r))
      (unraised_atFault (s.advance dt) r hu)
  case loaded =>
    have hbody : (s.advance dt).eepromByteBody value = (s.advance dt).load c := by
      rw [eepromByteBody_of_complete value (s.advance dt) records image hl himage hsome, hc]
      rfl
    have hclear : s.handed = Handed.clear := hq.1
    rw [exec_of_effect (c := .eepromByte dt value) rfl hq hbody (unraised_load (s.advance dt) c hu), load_eq, leaveFrame_emptied,
      ← hclear]
    rfl

/-! ## CONFIG_RECORD (R204, R209) -/

/-- The host image that a CONFIG_RECORD leaves, and its result. -/
def State.recordOutcome (s : State) (tail : Tail) : List ConfigRecord × Result :=
  if recordLengthIs tail then
    if s.awaitsRecords then
      if hostImageEnds s.sl.hostImage then (s.sl.hostImage, .badParam)
      else if Config.hostImageLimit < (hostImageBytes s.sl.hostImage).length + (2 + (tail.bytes.drop 2).length) then
        (s.sl.hostImage, .busy)
      else (s.sl.hostImage ++ [{ tag := tail.bytes.headD 0x00#8, payload := tail.bytes.drop 2 }], .ok)
    else (s.sl.hostImage, .wrongState)
  else (s.sl.hostImage, .badLength)

/-- CONFIG_RECORD's judgement: the length test comes first. -/
def configRecordJudge (tail : Tail) (s : State) : Judged :=
  if recordLengthIs tail then s.judgeConfigRecord tail.bytes else (s, .badLength)

/-- The length of a record as it stands in the host image. -/
theorem configRecord_bytes_length (r : ConfigRecord) : r.bytes.length = 2 + r.payload.length := by
  simp [ConfigRecord.bytes]
  omega

/-- CONFIG_RECORD changes the host image alone. -/
theorem configRecordJudge_eq (tail : Tail) (s : State) :
    configRecordJudge tail s =
      (s.setSl { s.sl with hostImage := (s.recordOutcome tail).1 }, (s.recordOutcome tail).2) := by
  unfold configRecordJudge State.recordOutcome
  by_cases hl : recordLengthIs tail = true
  · rw [if_pos hl, if_pos hl, State.judgeConfigRecord]
    by_cases ha : s.awaitsRecords = true
    · rw [if_pos ha, if_pos ha]
      by_cases he : hostImageEnds s.sl.hostImage = true
      · rw [if_pos he, if_pos he]
        rfl
      · rw [if_neg he, if_neg he]
        dsimp only
        rw [configRecord_bytes_length]
        split <;> rfl
    · rw [if_neg ha, if_neg ha]
      rfl
  · rw [if_neg hl, if_neg hl]
    rfl

theorem recordLengthIs_iff (tail : Tail) :
    recordLengthIs tail = true ↔ tail.partialByte = false ∧ ∃ tag length payload, tail.bytes = tag :: length :: payload ∧
      payload.length = length.toNat := by
  unfold recordLengthIs
  obtain ⟨bytes, partialByte⟩ := tail
  rcases bytes with _ | ⟨tag, _ | ⟨length, payload⟩⟩
  · simp
  · simp
  · simp [and_comm]

theorem hostImageEnds_iff (records : List ConfigRecord) :
    hostImageEnds records = true ↔ ∃ q, records.getLast? = some q ∧ q.tag = 0x00#8 := by
  unfold hostImageEnds
  cases records.getLast? <;> simp

/-- Only a record that is taken changes the host image. -/
theorem recordOutcome_of_refused (s : State) (tail : Tail) (h : (s.recordOutcome tail).2 ≠ .ok) :
    (s.recordOutcome tail).1 = s.sl.hostImage := by
  unfold State.recordOutcome at h ⊢
  by_cases hl : recordLengthIs tail = true
  · rw [if_pos hl] at h ⊢
    by_cases ha : s.awaitsRecords = true
    · rw [if_pos ha] at h ⊢
      by_cases he : hostImageEnds s.sl.hostImage = true
      · rw [if_pos he]
      · rw [if_neg he] at h ⊢
        split at h
        · rw [if_pos ‹_›]
        · exact absurd rfl h
    · rw [if_neg ha]
  · rw [if_neg hl]

/-- Settles O18: by the byte count, the station state, the image's end and the room. -/
theorem configRecordEntersTheHostImage : Obligations.ConfigRecordEntersTheHostImage := by
  intro dt tail s hq hp
  have hexec : exec (.configRecord dt tail) s = _ :=
    exec_of_taken rfl rfl hq hp (configRecordJudge_eq tail (s.opened dt)) (unraised_opened s dt hq)
  refine ⟨(s.recordOutcome tail).2, (s.recordOutcome tail).1, hexec, recordOutcome_of_refused s tail, fun hl => ?badLength,
    fun tag length payload htail hlength => ⟨fun hstate => ?wrongState, fun hstate => ⟨fun hends => ?badParam, fun hopen =>
      ⟨fun hbig => ?busy, fun hroom => ?taken⟩⟩⟩⟩
  case badLength =>
    rw [State.recordOutcome, if_neg (fun h => hl ((recordLengthIs_iff tail).mp h))]
  all_goals
    have hl : recordLengthIs tail = true := (recordLengthIs_iff tail).mpr ⟨htail ▸ rfl, tag, length, payload, htail ▸ rfl, hlength⟩
    have hdrop : tail.bytes.drop 2 = payload := by rw [htail]; rfl
    have hhead : tail.bytes.headD 0x00#8 = tag := by rw [htail]; rfl
    rw [State.recordOutcome, if_pos hl, hdrop, hhead]
  case wrongState =>
    rw [if_neg fun h => ((awaitsRecords_iff s).mp h).elim hstate.1 hstate.2]
  all_goals rw [if_pos ((awaitsRecords_iff s).mpr hstate)]
  case badParam => rw [if_pos ((hostImageEnds_iff _).mpr hends)]
  all_goals rw [if_neg fun h => absurd ((hostImageEnds_iff _).mp h) fun ⟨q, hlast, htag⟩ => hopen q hlast htag]
  case busy => rw [if_pos (show Config.hostImageLimit < _ from hbig)]
  case taken =>
    rw [if_neg (show ¬Config.hostImageLimit < _ from Nat.not_lt.mpr hroom)]
    exact ⟨rfl, rfl⟩

/-! ## SET_WINDOW (R138) -/

/-- Eight parameter bytes are read as the rectangle they were written from. -/
theorem rectOfBytes_of_numbers {x0 y0 x1 y1 : Nat} (hx0 : x0 < 65536) (hy0 : y0 < 65536) (hx1 : x1 < 65536) (hy1 : y1 < 65536) :
    rectOfBytes (natToBytes 2 x0 ++ natToBytes 2 y0 ++ natToBytes 2 x1 ++ natToBytes 2 y1) = ⟨x0, y0, x1, y1⟩ := by
  have hread : ∀ v, v < 65536 → bytesToNat (natToBytes 2 v) = v := fun v hv => bytesToNat_natToBytes_of_lt hv
  simp [rectOfBytes, List.drop_append, List.drop_of_length_le, List.take_of_length_le, hread, hx0, hy0, hx1, hy1]

theorem judgeSetWindow_of_map (params : List Byte) (s : State) (c : Configuration) (h : s.config = some c) :
    s.judgeSetWindow params =
      if c.map.rectInCanvas (rectOfBytes params) then
        (s.setWe { s.we with window := some (rectOfBytes params),
                             cursor := some ((rectOfBytes params).x0, (rectOfBytes params).y0) }, .ok)
      else (s, .badParam) := by
  unfold State.judgeSetWindow
  rw [h]

theorem judgeSetWindow_of_noMap (params : List Byte) (s : State) (h : s.config = none) :
    s.judgeSetWindow params = (s, .wrongState) := by
  unfold State.judgeSetWindow
  rw [h]

theorem rectInCanvas_iff (m : TileMap) (r : Rect) :
    m.rectInCanvas r = true ↔ r.x0 ≤ r.x1 ∧ r.x1 < m.width ∧ r.y0 ≤ r.y1 ∧ r.y1 < m.height := by
  simp [TileMap.rectInCanvas]

/-- Settles O20: by the length, the map and the canvas. -/
theorem setWindowTakesACanvasRectangle : Obligations.SetWindowTakesACanvasRectangle := by
  intro dt s hq hp
  refine ⟨fun tail hl => ?badLength, fun x0 y0 x1 y1 hx0 hy0 hx1 hy1 tail htail => ?judged⟩
  case badLength =>
    refine exec_of_refused rfl (effectOf_setWindow dt tail) hq hp ?_
    exact if_neg (Bool.eq_false_iff.mp hl)
  case judged =>
    have hrect : rectOfBytes tail.bytes = ⟨x0, y0, x1, y1⟩ := by rw [htail]; exact rectOfBytes_of_numbers hx0 hy0 hx1 hy1
    have hjudge : exactLength tail 8 (s.opened dt) (State.judgeSetWindow tail.bytes) = (s.opened dt).judgeSetWindow tail.bytes :=
      exactLength_of_length _ _ _ _ ⟨by rw [htail]; simp, by rw [htail]⟩
    refine ⟨fun hnone => ?noMap, fun c hc => ?map⟩
    case noMap =>
      refine exec_of_refused rfl (effectOf_setWindow dt tail) hq hp ?_
      exact hjudge.trans (judgeSetWindow_of_noMap tail.bytes (s.opened dt) hnone)
    case map =>
      rw [judgeSetWindow_of_map tail.bytes (s.opened dt) c hc, hrect] at hjudge
      refine ⟨fun hin => ?_, fun hout => ?_⟩
      · have hexec := exec_of_taken rfl (effectOf_setWindow dt tail) hq hp
          (hjudge.trans (if_pos ((rectInCanvas_iff _ _).mpr hin))) (unraised_opened s dt hq)
        exact hexec
      · refine exec_of_refused rfl (effectOf_setWindow dt tail) hq hp ?_
        exact hjudge.trans (if_neg fun h => hout ((rectInCanvas_iff _ _).mp h))

/-! ## The stream (R140 to R145) -/

/-- The first three tests of R140. -/
theorem writingRefusal_of_refused (s : State) (r : Result)
    (h : (s.cu.phase = .absent ∧ r = .wrongState) ∨
      ((s.cu.phase = .idle ∨ s.cu.phase = .closing ∨ s.cu.phase = .waiting ∨ s.cu.phase = .held) ∧ r = .held) ∨
      (s.cu.phase = .building ∧ s.we.job.isSome ∧ r = .busy)) : s.writingRefusal = some r := by
  unfold State.writingRefusal
  obtain ⟨hphase, rfl⟩ | ⟨hphase, rfl⟩ | ⟨hphase, hjob, rfl⟩ := h
  · rw [hphase]
  · obtain hphase | hphase | hphase | hphase := hphase <;> rw [hphase]
  · rw [hphase]
    exact if_pos hjob

theorem writingRefusal_of_building (s : State) (hphase : s.cu.phase = .building) (hjob : s.we.job = none) :
    s.writingRefusal = none := by
  unfold State.writingRefusal
  rw [hphase, hjob]
  rfl

/-- The collecting epoch of a record held. -/
theorem collecting_of_record (s : State) (k : Record) (h : s.cu.record = some k) : s.collecting = k.collecting := by
  rw [State.collecting, h]
  rfl

/-- A stream that is refused changes nothing but the transaction. -/
theorem streamStartBody_of_refused (s : State) (r : Result) (hp : s.portReady = true) (hr : s.writingRefusal = some r) :
    s.streamStartBody = s.openPort (.stream { result := r, epoch := none, overrun := false, entered := false }) [] := by
  simp only [State.streamStartBody, State.openStream, hp, hr, if_true]

theorem streamContinueBody_of_refused (s : State) (r : Result) (hp : s.portReady = true) (hr : s.writingRefusal = some r) :
    s.streamContinueBody = s.openPort (.stream { result := r, epoch := none, overrun := false, entered := false }) [] := by
  simp only [State.streamContinueBody, State.openStream, hp, hr, if_true]

/-- A stream that is taken opens with the collecting epoch. -/
theorem openStream_of_taken (s : State) (hr : s.writingRefusal = none) :
    s.openStream =
      s.openPort (.stream { result := .ok, epoch := some s.collecting, overrun := false, entered := false }) [] := by
  simp only [State.openStream, hr]

theorem streamStartBody_of_taken (s : State) (hp : s.portReady = true) (hr : s.writingRefusal = none) :
    s.streamStartBody =
      s.openStream.setWe { s.we with cursor := s.we.window.map (fun w => (w.x0, w.y0)), assembler := [] } := by
  rw [State.streamStartBody, if_pos hp, openStream_of_taken s hr]
  dsimp only
  rw [hr]
  rfl

theorem streamContinueBody_of_taken (s : State) (hp : s.portReady = true) (hr : s.writingRefusal = none) :
    s.streamContinueBody = s.openStream.setWe { s.we with assembler := [] } := by
  rw [State.streamContinueBody, if_pos hp, openStream_of_taken s hr]
  dsimp only
  rw [hr]
  rfl

/-- Settles O21: by the first three tests of R140. -/
theorem streamIsTakenInBuildingOnly : Obligations.StreamIsTakenInBuildingOnly := by
  intro dt s hq hp
  have hu : (s.advance dt).Unraised := unraised_of_quiet s hq
  refine ⟨fun r hr c hc => ?refused, fun k hphase hjob hk => ?taken⟩
  case refused =>
    have hrefusal : (s.advance dt).writingRefusal = some r := writingRefusal_of_refused _ r hr
    obtain rfl | rfl := hc
    · exact exec_of_effect (c := .streamStart dt) rfl hq (streamStartBody_of_refused _ r hp hrefusal) hu
    · exact exec_of_effect (c := .streamContinue dt) rfl hq (streamContinueBody_of_refused _ r hp hrefusal) hu
  case taken =>
    have hrefusal : (s.advance dt).writingRefusal = none := writingRefusal_of_building _ hphase hjob
    have hopen : (s.advance dt).openStream = (s.advance dt).openPort
        (.stream { result := .ok, epoch := some k.collecting, overrun := false, entered := false }) [] := by
      rw [openStream_of_taken _ hrefusal, collecting_of_record (s.advance dt) k hk]
    have hstart := streamStartBody_of_taken (s.advance dt) hp hrefusal
    have hcontinue := streamContinueBody_of_taken (s.advance dt) hp hrefusal
    rw [hopen] at hstart hcontinue
    exact ⟨exec_of_effect (c := .streamStart dt) rfl hq hstart hu, exec_of_effect (c := .streamContinue dt) rfl hq hcontinue hu⟩

/-- The bytes of a refused or ended transaction are ignored (R141). -/
theorem streamPixelByteBody_of_ended (value : Byte) (s : State) (t : StreamTransaction) (ht : s.lp.transaction = .stream t)
    (he : t.epoch = none) : s.streamPixelByteBody value = s := by
  simp only [State.streamPixelByteBody, ht, he]

/-- A byte of a stream that is taken: into the assembler, or the last of a pixel (R142). -/
theorem streamPixelByteBody_of_taken (value : Byte) (s : State) (t : StreamTransaction) (e : Epoch)
    (ht : s.lp.transaction = .stream t) (he : t.epoch = some e) :
    s.streamPixelByteBody value =
      if s.we.assembler.length + 1 < s.format.bytes then s.setWe { s.we with assembler := s.we.assembler ++ [value] }
      else (s.setWe { s.we with assembler := [] }).offerPixel t e (hostPixel s.format (s.we.assembler ++ [value])) := by
  simp only [State.streamPixelByteBody, ht, he, List.length_append, List.length_singleton]

/-- A pixel with room in the buffer enters at the cursor, which moves (R139, R143, R145). -/
theorem offerPixel_of_room (t : StreamTransaction) (e : Epoch) (colour : Pixel) (s : State) (w : Rect) (x y : Nat)
    (hroom : s.we.buffer.length < 32) (hw : s.we.window = some w) (hc : s.we.cursor = some (x, y)) :
    s.offerPixel t e colour =
      { s with
        we := { s.we with
          buffer := s.we.buffer ++ [{ colour := colour, x := x, y := y, epoch := e, endMark := false }],
          hold := holdLevel s.we.hold (s.we.buffer.length + 1),
          cursor := some (moveCursor w (x, y)) },
        lp := { s.lp with transaction := .stream { t with entered := true } } } := by
  have hcap : Config.bufferCapacity = 32 := rfl
  simp only [State.offerPixel, hcap, hroom, hw, hc, if_true, State.setBuffer, List.length_append, List.length_singleton]
  rfl

/-- Settles O22: by the transaction's epoch, the assembler and the room in the buffer. -/
theorem pixelEntersTheBufferAtTheCursor : Obligations.PixelEntersTheBufferAtTheCursor := by
  intro dt value s t hq ht
  have hu : (s.advance dt).Unraised := unraised_of_quiet s hq
  refine ⟨fun he => exec_of_idle (c := .streamPixelByte dt value) rfl hq (streamPixelByteBody_of_ended value _ t ht he),
    fun e he => ?_⟩
  have hbody := streamPixelByteBody_of_taken value (s.advance dt) t e ht he
  refine ⟨fun hlt => ?assembled, fun w x y hle hroom hw hc => ?entered⟩
  case assembled =>
    exact exec_of_effect (c := .streamPixelByte dt value) rfl hq (hbody.trans (if_pos hlt)) hu
  case entered =>
    have hpixel := offerPixel_of_room t e (hostPixel s.format (s.we.assembler ++ [value]))
      ((s.advance dt).setWe { s.we with assembler := [] }) w x y hroom hw hc
    exact exec_of_effect (c := .streamPixelByte dt value) rfl hq
      ((hbody.trans (if_neg (Nat.not_lt.mpr hle))).trans hpixel) hu

/-- A pixel without room is counted, and reported once in a transaction (R144). -/
theorem offerPixel_of_full (t : StreamTransaction) (e : Epoch) (colour : Pixel) (s : State) (hfull : 32 ≤ s.we.buffer.length) :
    s.offerPixel t e colour =
      if t.overrun then s.countOverrun s.format.bytes
      else ((s.countOverrun s.format.bytes).setLp
        { (s.countOverrun s.format.bytes).lp with transaction := .stream { t with overrun := true } }).raise
          (EventRecord.only .streamOverrun) := by
  have hcap : ¬s.we.buffer.length < Config.bufferCapacity := Nat.not_lt.mpr hfull
  simp only [State.offerPixel, hcap, if_false]

/-- Settles O23: by the transaction's own mark. -/
theorem overrunPixelIsCountedAndReportedOnce : Obligations.OverrunPixelIsCountedAndReportedOnce := by
  intro dt value s t e k hq ht he hle hfull hk
  have hu : (s.advance dt).Unraised := unraised_of_quiet s hq
  subst hk
  have hbody := (streamPixelByteBody_of_taken value (s.advance dt) t e ht he).trans (if_neg (Nat.not_lt.mpr hle))
  have hpixel := offerPixel_of_full t e (hostPixel s.format (s.we.assembler ++ [value]))
    ((s.advance dt).setWe { s.we with assembler := [] }) hfull
  refine ⟨fun hover => ?counted, fun hover => ?reported⟩
  case counted =>
    exact exec_of_effect (c := .streamPixelByte dt value) rfl hq ((hbody.trans hpixel).trans (if_pos hover)) hu
  case reported =>
    exact exec_of_effect_raise (c := .streamPixelByte dt value) rfl hq
      ((hbody.trans hpixel).trans (if_neg (Bool.eq_false_iff.mp hover))) hu

/-! ## PRESENT (R90) -/

theorem judgePresent_of_building (s : State) (h : s.cu.phase = .building) :
    s.judgePresent = (s.setCu { s.cu with phase := .closing }, .ok) := by
  rw [State.judgePresent, h]

theorem judgePresent_of_other (s : State) (h : s.cu.phase ≠ .building) :
    s.judgePresent = (s, if s.cu.phase = .absent then .wrongState else .held) := by
  unfold State.judgePresent
  cases hphase : s.cu.phase with
  | building => exact absurd hphase h
  | _ => rfl

/-- Settles O30: by the length and the phase. -/
theorem presentClosesABuildingEpoch : Obligations.PresentClosesABuildingEpoch := by
  intro dt tail s hq hp
  refine ⟨fun htail hphase => ?closes, fun hnot => ?refused⟩
  case closes =>
    subst htail
    have hexec := exec_of_taken rfl (effectOf_present dt ⟨[], false⟩) hq hp
      ((exactLength_alone _ _).trans (judgePresent_of_building (s.opened dt) hphase)) (unraised_opened s dt hq)
    exact hexec
  case refused =>
    refine exec_of_refused rfl (effectOf_present dt tail) hq hp ?_
    by_cases htail : tail = ⟨[], false⟩
    · subst htail
      rw [if_pos rfl]
      exact (exactLength_alone _ _).trans (judgePresent_of_other (s.opened dt) fun hphase => hnot ⟨rfl, hphase⟩)
    · rw [if_neg htail]
      exact exactLength_of_more _ _ htail

/-! ## LEAVE, JOIN and the passage to JOINING (R49, R56, R66) -/

theorem judgeLeave_of_member (s : State) (h : s.mu.state = .member) :
    s.judgeLeave = (s.setSlots { s.lc.slots with leave := some (s.lc.slots.leave.getD Retry.fresh) }, .ok) := by
  rw [State.judgeLeave, if_pos h]
  by_cases hleave : s.lc.slots.leave = none
  · rw [if_pos hleave, hleave, Option.getD_none]
  · obtain ⟨r, hr⟩ := Option.ne_none_iff_exists'.mp hleave
    have hself : s.setSlots { s.lc.slots with leave := some r } = s := hr ▸ rfl
    rw [if_neg hleave, hr, Option.getD_some, hself]

theorem judgeLeave_of_other (s : State) (h : s.mu.state ≠ .member) : s.judgeLeave = (s, .wrongState) := if_neg h

theorem judgeJoin_of_out (s : State) (h : s.mu.state = .evicted ∨ s.mu.state = .detached) :
    s.judgeJoin = (s.enterListen, .ok) := if_pos h

theorem judgeJoin_of_other (s : State) (h : ¬(s.mu.state = .evicted ∨ s.mu.state = .detached)) :
    s.judgeJoin = (s, .wrongState) := if_neg h

/-- The entry to LISTEN, field by field (R45, R84, R115, R121). -/
theorem enterListen_eq (s : State) :
    s.enterListen =
      { s with
        mu := Membership.reset .listen, lc := s.lc.emptied, tu := { s.tu with source := none, silent := 0 }, cu := Commit.reset,
        fs := { s.fs with dirty := [], carry := [], inbound := [], showState := .background,
                          clear := some { begun := s.now, row := 0 } },
        handed := Handed.clear } := rfl

/-- A station in LISTEN founds nothing. -/
theorem unraised_enterListen (s : State) (h : s.Unraised) : s.enterListen.Unraised := by
  obtain ⟨hraised, hafter, -⟩ := h
  exact ⟨hraised, hafter, rfl⟩

/-- Settles O33: by the length and the station state. -/
theorem leaveAndJoinAreTakenByState : Obligations.LeaveAndJoinAreTakenByState := by
  intro dt s hq hp
  refine ⟨fun hstate => ?leave, fun hstate => ?join, fun c r hc => ?refused⟩
  case leave =>
    have hexec := exec_of_taken rfl (effectOf_leave dt ⟨[], false⟩) hq hp
      ((exactLength_alone _ _).trans (judgeLeave_of_member (s.opened dt) hstate)) (unraised_opened s dt hq)
    exact hexec
  case join =>
    have hclear : s.handed = Handed.clear := hq.1
    have hexec : exec (.join dt ⟨[], false⟩) s = .next ((s.opened dt).enterListen.setResult .ok) := by
      refine exec_of_taken rfl (effectOf_join dt _) hq hp ?_ (unraised_enterListen _ (unraised_opened s dt hq))
      exact (exactLength_alone _ _).trans (judgeJoin_of_out (s.opened dt) hstate)
    rw [enterListen_eq, ← hclear] at hexec
    exact hexec
  case refused =>
    obtain ⟨rfl, hstate, rfl⟩ | ⟨rfl, hevicted, hdetached, rfl⟩ | ⟨tail, htail, rfl | rfl, rfl⟩ := hc
    · refine exec_of_refused rfl (effectOf_leave dt ⟨[], false⟩) hq hp ?_
      exact (exactLength_alone _ _).trans (judgeLeave_of_other (s.opened dt) hstate)
    · refine exec_of_refused rfl (effectOf_join dt ⟨[], false⟩) hq hp ?_
      exact (exactLength_alone _ _).trans (judgeJoin_of_other (s.opened dt) (not_or.mpr ⟨hevicted, hdetached⟩))
    · exact exec_of_refused rfl (effectOf_leave dt tail) hq hp (exactLength_of_more _ _ htail)
    · exact exec_of_refused rfl (effectOf_join dt tail) hq hp (exactLength_of_more _ _ htail)

theorem joiningDue_iff (s : State) :
    s.joiningDue = true ↔ s.mu.state = .listen ∧ s.mu.listenCount = 4 ∧ s.fs.clear = none := by
  rw [State.joiningDue, Bool.and_eq_true, Bool.and_eq_true, decide_eq_true_iff, decide_eq_true_iff, Option.isNone_iff_eq_none,
    and_assoc]
  exact Iff.rfl

/-- Settles O34: by what the passage asks for. -/
theorem joiningFollowsListeningAndTheBankClear : Obligations.JoiningFollowsListeningAndTheBankClear := by
  intro s hu
  refine ⟨fun hdue => ?passage, fun hnot => ?nothing⟩
  case passage =>
    have hunraised := hu.joiningPassageBody
    have hbody : s.joiningPassageBody = _ := if_pos ((joiningDue_iff s).mpr hdue)
    rw [hbody] at hunraised
    exact exec_of_followOn (c := .joiningPassage) rfl hbody hunraised
  case nothing =>
    exact exec_of_followOn (c := .joiningPassage) rfl (if_neg fun h => hnot ((joiningDue_iff s).mp h)) hu

end Sys2Proof.Machine

/-! PROOFS. The Window Engine (chapter 7): the span builder, the release of a stream, the router, FILL, and the arithmetic of pixels
and tiles (chapter 1). -/

namespace Sys2Proof.Machine

/-! ## The span builder (R147 to R149) -/

theorem closeOpenRun_of_none (s : State) (h : s.we.openRun = none) : s.closeOpenRun = s := by
  unfold State.closeOpenRun
  rw [h]

theorem closeOpenRun_of_run (s : State) (r : Run) (h : s.we.openRun = some r) :
    s.closeOpenRun = (s.setWe { s.we with openRun := none }).offerRun r := by
  unfold State.closeOpenRun
  rw [h]

/-- A closed run of self's tile is presented to the bank writer, or waits. -/
theorem offerRun_of_local (s : State) (r : Run) (h : r.addressee = s.self) :
    s.offerRun r =
      if s.we.localRun = none ∧ s.we.waitingLocals = [] then s.setWe { s.we with localRun := some r }
      else s.setWe { s.we with waitingLocals := s.we.waitingLocals ++ [r] } := if_pos h

/-- A closed run of another tile enters the Outbound Queue as a span, or waits. -/
theorem offerRun_of_span (s : State) (r : Run) (h : r.addressee ≠ s.self) :
    s.offerRun r =
      if s.lc.outbound.length < 48 ∧ s.we.waitingSpans = [] then
        s.setLc { s.lc with outbound := s.lc.outbound ++ [r.entry] }
      else s.setWe { s.we with waitingSpans := s.we.waitingSpans ++ [r] } := if_neg h

/-- The waiting spans that find room enter; the rest stay (R148). -/
theorem waitingSpanBody_of_split (s : State) (enter stay : List Run) (h : s.we.waitingSpans = enter ++ stay)
    (hroom : s.lc.outbound.length + enter.length ≤ 48) (hfull : stay = [] ∨ s.lc.outbound.length + enter.length = 48) :
    s.waitingSpanBody =
      { s with we := { s.we with waitingSpans := stay },
               lc := { s.lc with outbound := s.lc.outbound ++ enter.map Run.entry } } := by
  have hcap : s.outboundRoom = 48 - s.lc.outbound.length := rfl
  have hsplit : s.admissibleSpans = enter ∧ s.we.waitingSpans.drop s.outboundRoom = stay := by
    rw [State.admissibleSpans, h, hcap]
    obtain rfl | hlen := hfull
    · rw [List.append_nil, List.take_of_length_le (by omega), List.drop_of_length_le (by omega)]
      exact ⟨rfl, rfl⟩
    · have hlen' : 48 - s.lc.outbound.length = enter.length := by omega
      rw [hlen', List.take_left, List.drop_left]
      exact ⟨rfl, rfl⟩
  rw [State.waitingSpanBody, hsplit.1, hsplit.2]
  rfl

/-- Settles O24: by the addressee of the run, and by the room where it goes. -/
theorem closedRunIsPresentedQueuedOrWaits : Obligations.ClosedRunIsPresentedQueuedOrWaits := by
  refine ⟨fun s u r hrun hu => ⟨fun hself => ?ownRun, fun hother => ?span⟩, closeOpenRun_of_none, fun s enter stay hs hsplit hroom hfull =>
    ?enters⟩
  case ownRun =>
    subst hu
    rw [closeOpenRun_of_run s r hrun, offerRun_of_local (s.setWe { s.we with openRun := none }) r hself]
    exact ⟨fun hnone hwait => if_pos ⟨hnone, hwait⟩, fun h => if_neg fun ⟨hnone, hwait⟩ => h.elim (· hnone) (· hwait)⟩
  case span =>
    subst hu
    rw [closeOpenRun_of_run s r hrun, offerRun_of_span (s.setWe { s.we with openRun := none }) r hother]
    exact ⟨fun hroom hwait => if_pos ⟨hroom, hwait⟩,
      fun h => if_neg fun ⟨hroom, hwait⟩ => h.elim (fun hfull => absurd hroom (Nat.not_lt.mpr hfull)) (· hwait)⟩
  case enters =>
    have hu := hs.waitingSpanBody
    rw [waitingSpanBody_of_split s enter stay hsplit hroom hfull] at hu
    exact exec_of_followOn (c := .waitingSpanAdmit) rfl (waitingSpanBody_of_split s enter stay hsplit hroom hfull) hu

/-! ## STREAM_RELEASE (R142, R143, R149) -/

theorem markLast_append (older : List BufferedPixel) (p : BufferedPixel) :
    markLast (older ++ [p]) = older ++ [{ p with endMark := true }] := by
  induction older with
  | nil => rfl
  | cons q older ih =>
    cases older with
    | nil => rfl
    | cons q' older => rw [List.cons_append, List.cons_append, markLast, ← List.cons_append, ih]; rfl

/-- The close of a run is no part of what the end of an event looks at. -/
theorem State.Unraised.closeOpenRun {s : State} (h : s.Unraised) : s.closeOpenRun.Unraised :=
  h.of_view (by simp) (by simp) (by simp)

theorem streamReleaseBody_of_ended (s : State) (t : StreamTransaction) (ht : s.lp.transaction = .stream t) (he : t.epoch = none) :
    s.streamReleaseBody = s.setLp { s.lp with transaction := .idle, lastResult := t.result } := by
  simp only [State.streamReleaseBody, ht, he]

/-- The release of a stream that was taken: the bytes of an incomplete pixel are counted and discarded, then the stream ends. -/
theorem streamReleaseBody_of_taken (s : State) (t : StreamTransaction) (e : Epoch) (ht : s.lp.transaction = .stream t)
    (he : t.epoch = some e) :
    s.streamReleaseBody =
      ({ s with
        we := { s.we with assembler := [] },
        lp := { s.lp with
          transaction := .idle, lastResult := t.result,
          counters := { s.lp.counters with
            overrunBytes := saturate s.lp.counters.overrunBytes s.we.assembler.length } } } : State).endStream t := by
  simp only [State.streamReleaseBody, ht, he]
  rfl

/-- Settles O25: by whether the transaction's last pixel is still in the buffer. -/
theorem streamReleaseMarksTheLastPixelOrCloses : Obligations.StreamReleaseMarksTheLastPixelOrCloses := by
  intro dt s t hq ht
  have hs : (s.advance dt).Unraised := unraised_of_quiet s hq
  refine ⟨fun he => exec_of_effect (c := .streamRelease dt) rfl hq (streamReleaseBody_of_ended _ t ht he) hs,
    fun e u he hu => ?_⟩
  have hbody : (s.advance dt).streamReleaseBody = u.endStream t := by
    rw [hu]
    exact streamReleaseBody_of_taken (s.advance dt) t e ht he
  have hunraised : u.Unraised := by
    rw [hu]
    exact unraised_of_quiet s hq
  have hbuffer : u.we.buffer = s.we.buffer := by rw [hu]
  refine ⟨fun older p hentered hpixels => ?marked, fun hnone => ?closed⟩
  case marked =>
    have hend : u.endStream t = u.setWe { u.we with buffer := older ++ [{ p with endMark := true }] } := by
      rw [State.endStream, hbuffer, hpixels, hentered, markLast_append]
      simp
    exact exec_of_effect (c := .streamRelease dt) rfl hq (hbody.trans hend) hunraised
  case closed =>
    have hend : u.endStream t = u.closeOpenRun := by
      rw [State.endStream, hbuffer]
      obtain hentered | hempty := hnone
      · simp [hentered]
      · simp [hempty]
    exact exec_of_effect (c := .streamRelease dt) rfl hq (hbody.trans hend) hunraised.closeOpenRun

/-! ## The router (R146 to R149) -/

theorem runWaits_iff (w : Window) : w.runWaits = true ↔ w.waitingSpans ≠ [] ∨ w.waitingLocals ≠ [] := by
  simp [Window.runWaits]

theorem runWaits_eq_false_iff (w : Window) : w.runWaits = false ↔ w.waitingSpans = [] ∧ w.waitingLocals = [] := by
  simp [Window.runWaits]

theorem continuedBy_iff (r : Run) (t : Tile) (p : BufferedPixel) :
    r.continuedBy t p = true ↔
      r.addressee = t.station ∧ r.epoch = p.epoch ∧ r.row + t.y = p.y ∧ r.start + r.pixels.length + t.x = p.x := by
  simp [Run.continuedBy]

/-- The tile whose station receives a pixel: self's, or another member's. -/
theorem routeOwner_of_owner (s : State) (p : BufferedPixel) (c : Configuration) (t : Tile) (hc : s.config = some c)
    (ho : c.map.owner p.x p.y = some t) (ht : t.station = c.map.self ∨ hasStation s.mu.members t.station = true) :
    s.routeOwner p = some t := by
  simp only [State.routeOwner, hc, ho]
  exact if_pos ht

/-- A gap pixel and a non-member's are received by none. -/
theorem routeOwner_of_unowned (s : State) (p : BufferedPixel) (c : Configuration) (hc : s.config = some c)
    (ho : ∀ t, c.map.owner p.x p.y = some t → t.station ≠ c.map.self ∧ hasStation s.mu.members t.station = false) :
    s.routeOwner p = none := by
  simp only [State.routeOwner, hc]
  cases hp : c.map.owner p.x p.y with
  | none => rfl
  | some t =>
    obtain ⟨hself, hmember⟩ := ho t hp
    exact if_neg fun h => h.elim hself (Bool.eq_false_iff.mp hmember)

/-- With an empty buffer, and while a closed run waits, no pixel is routed. -/
theorem routePixelBody_of_idle (s : State) (h : s.we.buffer = [] ∨ s.we.waitingSpans ≠ [] ∨ s.we.waitingLocals ≠ []) :
    s.routePixelBody = s := by
  unfold State.routePixelBody
  cases hb : s.we.buffer with
  | nil => rfl
  | cons p rest =>
    have hwaits : s.we.waitingSpans ≠ [] ∨ s.we.waitingLocals ≠ [] := h.resolve_left (by rw [hb]; exact List.cons_ne_nil _ _)
    exact if_pos ((runWaits_iff s.we).mpr hwaits)

theorem routePixelBody_of_owner (s : State) (p : BufferedPixel) (rest : List BufferedPixel) (t : Tile)
    (hb : s.we.buffer = p :: rest) (hw : s.we.runWaits = false) (ht : s.routeOwner p = some t) :
    s.routePixelBody = ((s.setBuffer rest).placePixel t p).closeIfFull p.endMark := by
  unfold State.routePixelBody
  simp only [hb, hw, ht, Bool.false_eq_true, if_false]

theorem routePixelBody_of_unowned (s : State) (p : BufferedPixel) (rest : List BufferedPixel)
    (hb : s.we.buffer = p :: rest) (hw : s.we.runWaits = false) (ht : s.routeOwner p = none) :
    s.routePixelBody =
      if s.closeOpenRun.we.runWaits then s.closeOpenRun else (s.closeOpenRun.setBuffer rest).countUnowned := by
  unfold State.routePixelBody
  simp only [hb, hw, ht, Bool.false_eq_true, if_false]

/-- A pixel that continues the open run. -/
theorem placePixel_of_continued (s : State) (t : Tile) (p : BufferedPixel) (r : Run) (hr : s.we.openRun = some r)
    (h : r.continuedBy t p = true) :
    s.placePixel t p = s.setWe { s.we with openRun := some { r with pixels := r.pixels ++ [p.colour] } } := by
  simp only [State.placePixel, hr, h, if_true]

/-- A pixel that continues no open run opens one, the run before it closed. -/
theorem placePixel_of_new (s : State) (t : Tile) (p : BufferedPixel)
    (h : ∀ r, s.we.openRun = some r → ¬r.continuedBy t p = true) :
    s.placePixel t p = s.closeOpenRun.setWe { s.closeOpenRun.we with openRun := some (runOf t p) } := by
  cases hr : s.we.openRun with
  | none =>
    rw [closeOpenRun_of_none s hr]
    simp only [State.placePixel, hr]
  | some r => simp only [State.placePixel, hr, Bool.eq_false_iff.mpr (h r hr), Bool.false_eq_true, if_false]

theorem closeIfFull_of_run (s : State) (r : Run) (marked : Bool) (hr : s.we.openRun = some r) :
    s.closeIfFull marked = if 64 ≤ r.pixels.length ∨ marked = true then s.closeOpenRun else s := by
  simp only [State.closeIfFull, hr]
  rfl

/-- Where a closed run goes does not depend on the pixel input buffer. -/
theorem offerRun_setBuffer (s : State) (r : Run) (b : List BufferedPixel) :
    (s.setBuffer b).offerRun r = (s.offerRun r).setBuffer b := by
  by_cases hself : r.addressee = s.self
  · rw [offerRun_of_local s r hself, offerRun_of_local (s.setBuffer b) r hself]
    by_cases h : s.we.localRun = none ∧ s.we.waitingLocals = []
    · rw [if_pos h]
      exact if_pos h
    · rw [if_neg h]
      exact if_neg h
  · rw [offerRun_of_span s r hself, offerRun_of_span (s.setBuffer b) r hself]
    by_cases h : s.lc.outbound.length < 48 ∧ s.we.waitingSpans = []
    · rw [if_pos h]
      exact if_pos h
    · rw [if_neg h]
      exact if_neg h

/-- The close of a run does not look at the pixel input buffer. -/
theorem closeOpenRun_setBuffer (s : State) (b : List BufferedPixel) :
    (s.setBuffer b).closeOpenRun = s.closeOpenRun.setBuffer b := by
  cases hr : s.we.openRun with
  | none => rw [closeOpenRun_of_none s hr, closeOpenRun_of_none (s.setBuffer b) hr]
  | some r =>
    rw [closeOpenRun_of_run s r hr, closeOpenRun_of_run (s.setBuffer b) r hr]
    exact offerRun_setBuffer (s.setWe { s.we with openRun := none }) r b

theorem closeOpenRun_hold (s : State) : s.closeOpenRun.we.hold = s.we.hold := by
  unfold State.closeOpenRun State.offerRun
  (repeat' split) <;> rfl

/-- The buffer as it stood, once more. -/
theorem setBuffer_restored (s : State) (b : List BufferedPixel) :
    ({ s.setBuffer b with we := { (s.setBuffer b).we with buffer := s.we.buffer, hold := s.we.hold } } : State) = s := rfl

/-- Settles O26: by the receiver of the head pixel, and by whether it continues the open run. -/
theorem routerPlacesOrCountsTheHeadPixel : Obligations.RouterPlacesOrCountsTheHeadPixel := by
  intro dt s hq
  have hs : (s.advance dt).Unraised := unraised_of_quiet s hq
  refine ⟨fun hidle => exec_of_idle (c := .routePixel dt) rfl hq (routePixelBody_of_idle _ hidle),
    fun p rest c u hb hspans hlocals hc hu => ⟨fun t ho ht => ?owned, fun ho => ?unowned⟩⟩
  case owned =>
    have hunraised : u.Unraised := by
      rw [hu]
      exact unraised_of_quiet s hq
    have hrun : u.we.openRun = s.we.openRun := by rw [hu]
    have hbody : (s.advance dt).routePixelBody = (u.placePixel t p).closeIfFull p.endMark := by
      rw [hu]
      exact routePixelBody_of_owner (s.advance dt) p rest t hb ((runWaits_eq_false_iff s.we).mpr ⟨hspans, hlocals⟩)
        (routeOwner_of_owner (s.advance dt) p c t hc ho ht)
    refine ⟨fun r hr hcont => ?continues, fun hnew => ?opens⟩
    case continues =>
      have hplace := placePixel_of_continued u t p r (hrun.trans hr) ((continuedBy_iff r t p).mpr hcont)
      have hfull := closeIfFull_of_run (u.placePixel t p) { r with pixels := r.pixels ++ [p.colour] } p.endMark
        (by rw [hplace]; rfl)
      rw [List.length_append, List.length_singleton, hplace] at hfull
      rw [hplace] at hbody
      refine ⟨fun hlt hmark => ?_, fun hclose => ?_⟩
      · have hopen := hfull.trans (if_neg fun h => h.elim (Nat.not_le.mpr hlt) (Bool.eq_false_iff.mp hmark))
        exact exec_of_effect (c := .routePixel dt) rfl hq (hbody.trans hopen) hunraised
      · refine exec_of_effect (c := .routePixel dt) rfl hq (hbody.trans (hfull.trans (if_pos hclose))) ?_
        exact State.Unraised.closeOpenRun hunraised
    case opens =>
      intro v
      have hplace : u.placePixel t p = v :=
        placePixel_of_new u t p fun r hr hcont => hnew r (hrun.symm.trans hr) ((continuedBy_iff r t p).mp hcont)
      have hfull := closeIfFull_of_run v (runOf t p) p.endMark rfl
      have hv : v.Unraised := hunraised.closeOpenRun
      rw [hplace] at hbody
      refine ⟨fun hmark => ?_, fun hmark => ?_⟩
      · have hopen := hfull.trans (if_neg fun h => h.elim (by simp [runOf]) (Bool.eq_false_iff.mp hmark))
        exact exec_of_effect (c := .routePixel dt) rfl hq (hbody.trans hopen) hv
      · exact exec_of_effect (c := .routePixel dt) rfl hq (hbody.trans (hfull.trans (if_pos (.inr hmark)))) hv.closeOpenRun
  case unowned =>
    have hbody := routePixelBody_of_unowned (s.advance dt) p rest hb ((runWaits_eq_false_iff s.we).mpr ⟨hspans, hlocals⟩)
      (routeOwner_of_unowned (s.advance dt) p c hc ho)
    have hclose : u.closeOpenRun = (s.advance dt).closeOpenRun.setBuffer rest := by
      rw [hu]
      exact closeOpenRun_setBuffer (s.advance dt) rest
    have hlp : (s.advance dt).closeOpenRun.lp = u.lp := by
      rw [hu]
      exact (State.closeOpenRun_frame (s.advance dt)).2.2.2.2.2.2.1
    have hclosed : (s.advance dt).closeOpenRun.Unraised := hs.closeOpenRun
    rw [hclose]
    refine ⟨fun hspans' hlocals' => ?_, fun hwaits => ?_⟩
    · have hcount := hbody.trans (if_neg (Bool.eq_false_iff.mp ((runWaits_eq_false_iff _).mpr ⟨hspans', hlocals'⟩)))
      rw [← hlp]
      exact exec_of_effect (c := .routePixel dt) rfl hq hcount hclosed
    · have hkeep := hbody.trans (if_pos ((runWaits_iff _).mpr hwaits))
      have hrestore := setBuffer_restored (s.advance dt).closeOpenRun rest
      rw [closeOpenRun_buffer, closeOpenRun_hold, show (s.advance dt).we.buffer = p :: rest from hb] at hrestore
      rw [exec_of_effect (c := .routePixel dt) rfl hq hkeep hclosed]
      exact congrArg Host.Outcome.next hrestore.symm

/-! ## FILL (R140, R152) -/

/-- The FILL entries as the tiles of the other members that the rectangle touches. -/
theorem fillEntries_eq (m : TileMap) (members : StationSet) (epoch : Epoch) (rect : Rect) (colour : Pixel) :
    State.fillEntries m members epoch rect colour =
      (m.tiles.filter (fun t => t.station ≠ m.self ∧ hasStation members t.station)).filterMap
        (fun t => (t.clip rect).map (fun r => { addressee := t.station, epoch := epoch, paint := .fill r colour })) := by
  rw [State.fillEntries, List.filterMap_filter]
  simp only [decide_eq_true_eq]

theorem judgeFill_of_refused (params : List Byte) (s : State) (r : Result) (h : s.writingRefusal = some r) :
    s.judgeFill params = (s, r) := by
  simp only [State.judgeFill, h]

/-- The tests of R140 that follow the first three, in order, and R152. -/
theorem judgeFill_of_building (params : List Byte) (s : State) (c : Configuration) (entries : List OutEntry)
    (h : s.writingRefusal = none) (hc : s.config = some c)
    (he : entries = State.fillEntries c.map s.mu.members s.collecting (rectOfBytes params) (hostPixel c.format (params.drop 8))) :
    s.judgeFill params =
      if c.map.rectInCanvas (rectOfBytes params) = false then (s, .badParam)
      else if s.streamPathEmpty = false then (s, .busy)
      else if 48 < s.lc.outbound.length + entries.length then (s, .busy)
      else
        ((s.setLc { s.lc with outbound := s.lc.outbound ++ entries }).setWe
          { s.we with job := State.fillJob c.map s.collecting (rectOfBytes params) (hostPixel c.format (params.drop 8)) }, .ok) := by
  subst he
  simp only [State.judgeFill, h, hc, Bool.not_eq_true']
  rfl

/-- Settles O27: the tests one after another. -/
theorem fillIsJudgedInOrderAndTakenWhole : Obligations.FillIsJudgedInOrderAndTakenWhole := by
  intro dt tail s hq hp
  refine ⟨fun r hr => ?early, fun c k rect colour entries hl hphase hjob hc hk hrect hcolour hentries => ?judged⟩
  case early =>
    obtain ⟨hl, rfl⟩ | ⟨hl, hr⟩ := hr
    · refine exec_of_refused rfl (effectOf_fill dt tail) hq hp ?_
      exact if_neg (Bool.eq_false_iff.mp hl)
    · have hrefusal : (s.opened dt).writingRefusal = some r := by
        refine writingRefusal_of_refused _ r ?_
        change (s.cu.phase = _ ∧ _) ∨ ((s.cu.phase = _ ∨ s.cu.phase = _ ∨ s.cu.phase = _ ∨ s.cu.phase = _) ∧ _) ∨ _
        obtain habsent | ⟨hna, hnb, rfl⟩ | hbuilding := hr
        · exact .inl habsent
        · refine .inr (.inl ⟨?_, rfl⟩)
          cases hphase : s.cu.phase <;> simp_all
        · exact .inr (.inr hbuilding)
      refine exec_of_refused rfl (effectOf_fill dt tail) hq hp ?_
      exact (if_pos hl).trans (judgeFill_of_refused tail.bytes _ r hrefusal)
  case judged =>
    have hcollecting : (s.opened dt).collecting = k.collecting := collecting_of_record _ k hk
    have hjudge := judgeFill_of_building tail.bytes (s.opened dt) c entries (writingRefusal_of_building _ hphase hjob) hc
      (by rw [fillEntries_eq, hcollecting, ← hrect, ← hcolour]; exact hentries)
    rw [← hrect, ← hcolour, hcollecting] at hjudge
    have hfirst : exactLength tail (8 + (s.opened dt).format.bytes) (s.opened dt) (State.judgeFill tail.bytes) = _ :=
      (if_pos hl).trans hjudge
    refine ⟨fun r hr => ?refused, fun hin hempty hroom => ?taken⟩
    case refused =>
      refine exec_of_refused rfl (effectOf_fill dt tail) hq hp (hfirst.trans ?_)
      obtain ⟨hout, rfl⟩ | ⟨hin, rfl, hbusy⟩ := hr
      · exact if_pos (Bool.eq_false_iff.mpr fun h => hout ((rectInCanvas_iff _ _).mp h))
      · have hcanvas : ¬c.map.rectInCanvas rect = false := by rw [(rectInCanvas_iff _ _).mpr hin]; exact Bool.noConfusion
        rw [if_neg hcanvas]
        by_cases hpath : (s.opened dt).streamPathEmpty = false
        · exact if_pos hpath
        · rw [if_neg hpath]
          exact if_pos (hbusy.resolve_left hpath)
    case taken =>
      have hcanvas : ¬c.map.rectInCanvas rect = false := by rw [(rectInCanvas_iff _ _).mpr hin]; exact Bool.noConfusion
      have hpath : ¬(s.opened dt).streamPathEmpty = false := by
        rw [show (s.opened dt).streamPathEmpty = true from hempty]
        exact Bool.noConfusion
      have hplace : ¬48 < (s.opened dt).lc.outbound.length + entries.length := Nat.not_lt.mpr hroom
      rw [if_neg hcanvas, if_neg hpath, if_neg hplace] at hfirst
      have hexec := exec_of_taken rfl (effectOf_fill dt tail) hq hp hfirst (unraised_opened s dt hq)
      exact hexec

/-! ## Pixels and tiles (R8, R10, R142) -/

/-- Bits put side by side, as a number. -/
theorem toNat_append_eq_mul_add {v w : Nat} (x : BitVec v) (y : BitVec w) : (x ++ y).toNat = x.toNat * 2 ^ w + y.toNat := by
  rw [BitVec.toNat_append, ← Nat.shiftLeft_add_eq_or_of_lt y.isLt, Nat.shiftLeft_eq]

/-- Settles O28: both sides as numbers. -/
theorem wideningRepeatsTheTopBits : Obligations.WideningRepeatsTheTopBits := by
  intro v
  have hv := v.isLt
  apply BitVec.eq_of_toNat_eq
  simp only [toNat_append_eq_mul_add, BitVec.extractLsb'_toNat, widenPixel, widen5, widen6, BitVec.toNat_ofNat,
    Nat.shiftRight_eq_div_pow, Nat.reducePow, Nat.div_one]
  have hred : v.toNat / 2048 % 32 / 4 = v.toNat / 8192 % 8 := by omega
  have hgreen : v.toNat / 32 % 64 / 16 = v.toNat / 512 % 4 := by omega
  have hblue : v.toNat % 32 / 4 = v.toNat / 4 % 8 := by omega
  rw [hred, hgreen, hblue, Nat.mod_eq_of_lt (by omega)]
  ring

theorem covers_iff (t : Tile) (x y : Nat) :
    t.covers x y = true ↔ t.x ≤ x ∧ x < t.x + t.width ∧ t.y ≤ y ∧ y < t.y + t.height := by
  simp [Tile.covers]

/-- The rectangle and the tile have no column or no row in common. -/
def Tile.misses (t : Tile) (r : Rect) : Prop := r.x1 < t.x ∨ t.x + t.width ≤ r.x0 ∨ r.y1 < t.y ∨ t.y + t.height ≤ r.y0

theorem clip_of_misses (t : Tile) (r : Rect) (h : t.misses r) : t.clip r = none := if_pos h

theorem clip_of_meets (t : Tile) (r : Rect) (h : ¬t.misses r) :
    t.clip r = some
      { x0 := max r.x0 t.x - t.x, y0 := max r.y0 t.y - t.y,
        x1 := min r.x1 (t.x + t.width - 1) - t.x, y1 := min r.y1 (t.y + t.height - 1) - t.y } := if_neg h

/-- Settles O29: column by column and row by row. -/
theorem tileClipHoldsTheCommonPoints : Obligations.TileClipHoldsTheCommonPoints := by
  intro t r hw hh hx hy
  by_cases hm : t.misses r
  · refine ⟨⟨fun _ x y hx0 hx1 hy0 hy1 => ?_, fun _ => clip_of_misses t r hm⟩, fun q hq => ?_⟩
    · rw [Bool.eq_false_iff, Ne, covers_iff]
      unfold Tile.misses at hm
      omega
    · rw [clip_of_misses t r hm] at hq
      cases hq
  · have hclip := clip_of_meets t r hm
    unfold Tile.misses at hm
    refine ⟨⟨fun hnone => ?_, fun hall => ?_⟩, fun q hq x y => ?_⟩
    · rw [hclip] at hnone
      cases hnone
    · have hcommon : t.covers (max r.x0 t.x) (max r.y0 t.y) = true := by
        rw [covers_iff]
        omega
      exact absurd hcommon (Bool.eq_false_iff.mp (hall _ _ (by omega) (by omega) (by omega) (by omega)))
    · rw [hclip] at hq
      injection hq with hq
      subst hq
      rw [covers_iff]
      dsimp only
      omega

end Sys2Proof.Machine

/-! PROOFS. The Commit Unit's rows (chapter 5) and the Timing Unit's (chapter 4). -/

namespace Sys2Proof.Machine

/-! ## READY_QUEUED and READY_WAIT_EXPIRY (R91, R102) -/

/-- What the drain test of R91 asks for, and what READY(c) waits for besides. -/
theorem readyDue_iff (s : State) (r : Record) (h : s.cu.record = some r) :
    (s.cu.phase = .closing ∧ s.drained = true ∧ s.lc.slots.ready = none) ↔
      (s.cu.phase = .closing ∧ s.we.buffer = [] ∧ s.we.openRun = none ∧ s.we.waitingSpans = [] ∧
        s.we.waitingLocals = [] ∧ s.we.localRun = none ∧ s.we.job = none ∧
        (∀ e ∈ s.lc.outbound, e.epoch ≠ r.collecting) ∧ s.fs.carry = [] ∧ s.lc.slots.ready = none) := by
  have hdrained : s.drained =
      (s.streamPathEmpty && s.we.job.isNone && s.lc.outbound.all (fun e => e.epoch != r.collecting) && s.fs.carry.isEmpty) := by
    rw [State.drained, h]
  simp [hdrained, State.streamPathEmpty, Window.runWaits, and_assoc]

theorem readyDue_of_drained (s : State) (r : Record) (h : s.cu.record = some r)
    (hdue : s.cu.phase = .closing ∧ s.drained = true ∧ s.lc.slots.ready = none) : s.readyDue = some r.collecting := by
  rw [State.readyDue, if_pos hdue, h]
  rfl

theorem readyDue_of_not (s : State) (h : ¬(s.cu.phase = .closing ∧ s.drained = true ∧ s.lc.slots.ready = none)) :
    s.readyDue = none := if_neg h

theorem readyQueuedBody_of_due (s : State) (c : Epoch) (h : s.readyDue = some c) :
    s.readyQueuedBody = s.setSlots { s.lc.slots with ready := some { epoch := c, retry := Retry.fresh } } := by
  rw [State.readyQueuedBody, h]

theorem readyQueuedBody_of_none (s : State) (h : s.readyDue = none) : s.readyQueuedBody = s := by
  rw [State.readyQueuedBody, h]

/-- A DROP request fills the slot or joins its set (R30). -/
theorem requestDrop_eq (s : State) (m : StationSet) :
    s.requestDrop m =
      s.setSlots { s.lc.slots with
        drop := some (match s.lc.slots.drop with
          | none => { stations := m, retry := { attempts := 0, expiry := none } }
          | some d => { d with stations := d.stations ||| m }) } := by
  unfold State.requestDrop
  cases s.lc.slots.drop <;> rfl

/-- A change of the slots alone is no part of what the end of an event looks at. -/
theorem State.Unraised.setSlots {s : State} (h : s.Unraised) (v : Slots) : (s.setSlots v).Unraised := h

theorem readyWaitBody_of_due (s : State) (r : Record) (h : s.handed.readyWait = true) (hr : s.cu.record = some r) :
    s.readyWaitBody =
      if setMinus r.required r.ready = 0#16 then s.setHanded { s.handed with readyWait := false }
      else (s.setHanded { s.handed with readyWait := false }).requestDrop (setMinus r.required r.ready) := by
  rw [State.readyWaitBody, if_pos h]
  simp only [hr]

/-- Settles O31: by the drain test, and by whether a required station has not readied. -/
theorem readyIsQueuedOnceDrainedAndItsWaitEndsInDrop : Obligations.ReadyIsQueuedOnceDrainedAndItsWaitEndsInDrop := by
  refine ⟨fun s r hs hr => ⟨fun hdue => ?queued, fun hnot => ?nothing⟩, fun s r missing hs hdue hr hm => ⟨fun hempty => ?none, fun hsome =>
    ?drop⟩⟩
  case queued =>
    have hbody := readyQueuedBody_of_due s _ (readyDue_of_drained s r hr ((readyDue_iff s r hr).mpr hdue))
    exact exec_of_followOn (c := .readyQueued) rfl hbody (hs.setSlots _)
  case nothing =>
    have hbody := readyQueuedBody_of_none s (readyDue_of_not s fun h => hnot ((readyDue_iff s r hr).mp h))
    exact exec_of_followOn (c := .readyQueued) rfl hbody hs
  case none =>
    subst hm
    exact exec_of_followOn (c := .readyWaitExpiry) rfl ((readyWaitBody_of_due s r hdue hr).trans (if_pos hempty)) hs
  case drop =>
    have hbody := (readyWaitBody_of_due s r hdue hr).trans (if_neg (hm ▸ hsome))
    rw [requestDrop_eq, ← hm] at hbody
    exact exec_of_followOn (c := .readyWaitExpiry) rfl hbody hs

/-! ## FLIP and FLIP_PASSED (R106 to R108, R128, R185) -/

/-- An event that raised one record and one that follows it ends with both in the queue. -/
theorem closeEvent_raise_raiseAfter (t : State) (e f : EventRecord) (ht : t.Unraised) :
    closeEvent ((t.raise e).raiseAfter f) = (t.setLp ((t.lp.enqueue e).enqueue f)).setFree (t.free + 1) := by
  obtain ⟨hraised, hafter, hrefound⟩ := ht
  have hnot : ((t.raise e).raiseAfter f).refoundDue = false := hrefound
  have hrec : ((t.raise e).raiseAfter f).lp.raised = [e] ∧ ((t.raise e).raiseAfter f).lp.raisedAfter = [f] := by
    simp [State.raise, State.raiseAfter, hraised, hafter]
  have hport : ({ ((t.raise e).raiseAfter f).lp with raised := [], raisedAfter := [] } : Port) = t.lp := by
    rw [show t.lp = { t.lp with raised := t.lp.raised, raisedAfter := t.lp.raisedAfter } from rfl, hraised, hafter]
    rfl
  have horder : ∀ k, freeOrder k [e] = [e] := fun k => by simp [freeOrder, insertAt]
  rw [closeEvent, State.refound, hnot, if_neg Bool.false_ne_true, State.admitRaised, hrec.1, hrec.2, hport, horder]
  rfl

/-- The flip taken, without its records. -/
def State.flipped (s : State) (r : Record) (l : LastCommit) : State :=
  ((s.setHanded { s.handed with flip := false }).swapBanks.passFlip r l).setLp
    { s.lp with prs := some ((s.tu.generator.bind Generator.lastVertical).getD s.now + s.lineTime) }

theorem flipBody_of_due (s : State) (r : Record) (l : LastCommit) (h : s.handed.flip = true) (hr : s.cu.record = some r)
    (hl : r.pendingFlip = some l) :
    s.flipBody = ((s.flipped r l).raise (EventRecord.flipped l.epoch)).reportLateness l := by
  rw [State.flipBody, if_pos h]
  simp only [hr, hl]
  rfl

theorem flipPassedBody_of_due (s : State) (r : Record) (l : LastCommit) (h : s.handed.flipPassed = true)
    (hr : s.cu.record = some r) (hl : r.pendingFlip = some l) :
    s.flipPassedBody =
      (s.setHanded { s.handed with flipPassed := false }).setRecord { r with last := some { l with flipped := true } } := by
  rw [State.flipPassedBody, if_pos h]
  simp only [hr, hl]

/-- The flip, with the configuration and the vertical start that it reads. -/
theorem flipped_eq (s : State) (r : Record) (l : LastCommit) (c : Configuration) (g : Generator) (v : Nat)
    (hc : s.config = some c) (hg : s.tu.generator = some g) (hv : g.lastVertical = some v) :
    s.flipped r l =
      { s with
        handed := { s.handed with flip := false },
        fs := { s.fs with
          front := s.fs.front.other, dirty := [], showState := .front,
          carry := match c.policy with
            | .keep => s.fs.dirty
            | .clear => List.range c.map.ownTile.height },
        cu := { s.cu with
          record := some { r with last := some { l with flipped := true } },
          phase := if hasStation r.required c.map.self then .building else .idle },
        lp := { s.lp with prs := some (v + c.lineTime) } } := by
  have hpolicy : s.carryRows = (match c.policy with
      | .keep => s.fs.dirty
      | .clear => List.range c.map.ownTile.height) := by
    cases hp : c.policy <;> simp only [State.carryRows, State.carryPolicy, State.ownHeight, hc, hp]
  have hself : s.self = c.map.self := by rw [State.self, hc]
  have hprs : (s.tu.generator.bind Generator.lastVertical).getD s.now + s.lineTime = v + c.lineTime := by
    rw [hg, State.lineTime, hc, Option.bind_some, hv, Option.getD_some]
  rw [← hpolicy, ← hself, ← hprs]
  rfl

/-- Settles O32: the flip field by field, its records by the lateness. -/
theorem flipSwapsBanksAndOpensTheNextEpoch : Obligations.FlipSwapsBanksAndOpensTheNextEpoch := by
  refine fun s r l hs hr hl => ⟨fun c g v t hdue hc hg hv ht => ?flip, fun hdue => ?passed⟩
  case passed =>
    exact exec_of_followOn (c := .flipPassed) rfl (flipPassedBody_of_due s r l hdue hr hl) hs
  case flip =>
    have hbody := flipBody_of_due s r l hdue hr hl
    have ht' : t = (s.flipped r l).setFree (s.free + 1) := by
      rw [ht, flipped_eq s r l c g v hc hg hv]
      rfl
    have hlp : t.lp = (s.flipped r l).lp := by rw [ht']; rfl
    have hu : (s.flipped r l).Unraised := hs
    rw [hlp, ht']
    refine ⟨fun htime => ?onTime, fun hlate => ?late⟩
    case onTime =>
      exact (exec_eq .flip s).trans (followOn_of_effect_raise _ s _ _ (hbody.trans (if_pos htime)) hu)
    case late =>
      have hlateBody : s.flipBody = ((s.flipped r l).countLateFlip.raise (EventRecord.flipped l.epoch)).raiseAfter
          (EventRecord.lateFlip l.epoch (s.tu.count - l.flipFrame)) := hbody.trans (if_neg hlate)
      have hend := closeEvent_raise_raiseAfter (s.flipped r l).countLateFlip (EventRecord.flipped l.epoch)
        (EventRecord.lateFlip l.epoch (s.tu.count - l.flipFrame)) hu
      have hexec : exec .flip s = .next (closeEvent s.flipBody) := exec_eq .flip s
      exact hexec.trans (congrArg Host.Outcome.next ((congrArg closeEvent hlateBody).trans hend))

/-! ## LOCK_LOSS and BEACON_LOSS (R80 to R82) -/

/-- The rank counts the members below self without the source. -/
theorem rank_eq (members : StationSet) (source self : Station) :
    rank members source self =
      ((List.finRange 16).filter (fun y => hasStation members y ∧ y ≠ source ∧ y < self)).length := by
  rw [rank, stationsOf, List.filter_filter]
  congr 2
  funext y
  simp [and_comm]

theorem lostSource_iff (s : State) (x : Station) :
    s.lostSource = some x ↔ s.tu.source = some x ∧ s.mu.state = .member ∧ hasStation s.mu.members x = true ∧ x ≠ s.self ∧
      3 + 2 * rank s.mu.members x s.self ≤ s.tu.silent := by
  unfold State.lostSource
  cases hsource : s.tu.source with
  | none => simp
  | some y =>
    dsimp only
    split
    · rename_i h
      refine ⟨fun hx => ?_, fun ⟨hx, _⟩ => hx⟩
      injection hx with hx
      subst hx
      exact ⟨rfl, h⟩
    · rename_i h
      refine ⟨nofun, fun ⟨hx, hrest⟩ => absurd hrest ?_⟩
      injection hx with hx
      subst hx
      exact h

theorem rankRetest_of_lost (s : State) (x : Station) (h : s.lostSource = some x) :
    s.rankRetest = s.requestDrop (oneStation x) := by
  rw [State.rankRetest, h]

/-- Settles O35: the change of lock state is reported, the lost source is to be dropped. -/
theorem lockLossAndBeaconLoss : Obligations.LockLossAndBeaconLoss := by
  refine fun s hs => ⟨fun hdue hlock => ?lock, fun x hdue hstate hsource hmember hother hsilent => ?beacon⟩
  case lock =>
    have hbody : s.lockLossBody =
        ((s.setHanded { s.handed with lockLoss := false }).setTu { s.tu with lock := .free }).raise (EventRecord.lock .free) :=
      (if_pos hdue).trans (if_neg hlock)
    have hu : ((s.setHanded { s.handed with lockLoss := false }).setTu { s.tu with lock := .free }).Unraised := hs
    exact (exec_eq .lockLoss s).trans (followOn_of_effect_raise _ s _ _ hbody hu)
  case beacon =>
    have hlost : (s.setHanded { s.handed with beaconLoss := false }).lostSource = some x :=
      (lostSource_iff _ x).mpr ⟨hsource, hstate, hmember, hother, (rank_eq s.mu.members x s.self).symm ▸ hsilent⟩
    have hbody : s.beaconLossBody = (s.setHanded { s.handed with beaconLoss := false }).requestDrop (oneStation x) :=
      (if_pos hdue).trans (rankRetest_of_lost _ x hlost)
    rw [requestDrop_eq] at hbody
    exact exec_of_followOn (c := .beaconLoss) rfl hbody hs

/-! ## VERTICAL_START (R46, R69, R71, R101, R105) -/

theorem latchSlots_eq (s : State) (inVerdict : Bool) :
    s.latchSlots inVerdict =
      s.setLc { s.lc with
        slotView := if inVerdict = true ∧ s.lc.view = .inFrame ∧ s.lc.slotView = none then some s.slotViewNow
          else s.lc.slotView } := by
  unfold State.latchSlots
  by_cases h : inVerdict = true ∧ s.lc.view = .inFrame ∧ s.lc.slotView = none
  · rw [if_pos h]
    exact if_pos (by simp [h])
  · rw [if_neg h]
    refine if_neg fun hand => h ?_
    simpa [and_assoc] using hand

theorem countListen_eq (s : State) :
    s.countListen =
      s.setMu { s.mu with
        listenCount := if s.mu.state = .listen then min 4 (s.mu.listenCount + 1) else s.mu.listenCount } := by
  unfold State.countListen
  by_cases h : s.mu.state = .listen
  · rw [if_pos h, if_pos h]
    rfl
  · rw [if_neg h, if_neg h]
    rfl

theorem countWait_eq (s : State) :
    s.countWait = s.setCu { s.cu with timer := if s.cu.phase = .waiting then min 60 (s.cu.timer + 1) else s.cu.timer } := by
  unfold State.countWait
  by_cases h : s.cu.phase = .waiting
  · rw [if_pos h, if_pos h]
    rfl
  · rw [if_neg h, if_neg h]
    rfl

theorem fillBeacon_eq (s : State) :
    s.fillBeacon = s.setSlots { s.lc.slots with beacon := s.lc.slots.beacon || s.beaconRule } := by
  unfold State.fillBeacon
  by_cases h : s.beaconRule = true
  · rw [if_pos h, h, Bool.or_true]
  · rw [if_neg h, Bool.eq_false_iff.mpr h, Bool.or_false]
    rfl

/-- The vertical start before it is seen what it finds due: latched slots, counts, beacon slot. -/
def State.counted (s : State) (inVerdict : Bool) : State :=
  ((s.latchSlots inVerdict).countFrame.countListen).countWait.fillBeacon

/-- The vertical start's counts, field by field. -/
theorem counted_eq (s : State) (inVerdict : Bool) :
    s.counted inVerdict =
      { s with
        tu := { s.tu with
          generator := some { blankStart := s.now, correction := s.tu.held, activeSince := none, lastVertical := some s.now },
          held := none, count := s.tu.count + 1, startsSince := s.tu.startsSince + 1,
          silent := min 255 (s.tu.silent + 1) },
        mu := { s.mu with
          listenCount := if s.mu.state = .listen then min 4 (s.mu.listenCount + 1) else s.mu.listenCount },
        cu := { s.cu with timer := if s.cu.phase = .waiting then min 60 (s.cu.timer + 1) else s.cu.timer },
        lc := { s.lc with
          slotView := if inVerdict = true ∧ s.lc.view = .inFrame ∧ s.lc.slotView = none then some s.slotViewNow
            else s.lc.slotView,
          slots := { s.lc.slots with beacon := s.lc.slots.beacon || s.beaconRule } } } := by
  rw [State.counted, latchSlots_eq, countListen_eq, countWait_eq, fillBeacon_eq]
  rfl

/-- Nothing that the end of an event looks at is counted at a vertical start. -/
theorem State.Unraised.counted {s : State} (h : s.Unraised) (inVerdict : Bool) : (s.counted inVerdict).Unraised := by
  rw [counted_eq]
  exact h

theorem verticalStartDue_of_active (s : State) (c : Configuration) (g : Generator) (a : Nat) (hc : s.config = some c)
    (hg : s.tu.generator = some g) (ha : g.activeSince = some a) :
    s.verticalStartDue = decide (a + c.map.ownTile.height * c.lineTime ≤ s.now) := by
  simp only [State.verticalStartDue, hc, hg, ha]

theorem self_of_config (s : State) (c : Configuration) (h : s.config = some c) : s.self = c.map.self := by
  rw [State.self, h]

theorem beaconRule_of_config (s : State) (c : Configuration) (h : s.config = some c) :
    s.beaconRule = (decide (s.mu.state = .member) && s.mu.synced &&
      match s.tu.source with
      | none => true
      | some x => !hasStation s.mu.members x || decide (c.map.self ≤ x)) := by
  cases hsource : s.tu.source <;> simp only [State.beaconRule, self_of_config s c h, hsource]

theorem readyLimit_of_config (s : State) (c : Configuration) (h : s.config = some c) : s.readyLimit = c.readyLimit := by
  rw [State.readyLimit, h]

/-- What is handed on is no part of the tests that were made. -/
theorem handOn_flip (s : State) : s.handOn.handed.flip = s.handOn.flipTest := rfl

theorem handOn_flipPassed (s : State) : s.handOn.handed.flipPassed = s.handOn.flipPassedTest := rfl

/-- Settles O36: before its time nothing; then the counts, and on them the tests. -/
theorem verticalStartCountsAndFindsDue : Obligations.VerticalStartCountsAndFindsDue := by
  intro dt inVerdict s c g a hq hc hg ha
  have hdue := verticalStartDue_of_active (s.advance dt) c g a hc hg ha
  refine ⟨fun hearly => ?waits, fun hcome => ?counts⟩
  case waits =>
    refine exec_of_idle (c := .verticalStart dt inVerdict) rfl hq (if_neg ?_)
    rw [hdue, decide_eq_true_eq]
    exact Nat.not_le.mpr hearly
  case counts =>
    have hbody : (s.advance dt).verticalStartBody inVerdict = ((s.advance dt).counted inVerdict).handOn :=
      if_pos (hdue.trans (decide_eq_true hcome))
    have hu : ((s.advance dt).counted inVerdict).Unraised :=
      State.Unraised.counted (s := s.advance dt) (unraised_of_quiet s hq) inVerdict
    have hcounted := counted_eq (s.advance dt) inVerdict
    rw [beaconRule_of_config (s.advance dt) c hc] at hcounted
    obtain ⟨w, hw⟩ : ∃ w, w = (s.advance dt).counted inVerdict := ⟨_, rfl⟩
    rw [← hw] at hbody hu hcounted
    have hexec : exec (.verticalStart dt inVerdict) s = .next w.handOn := exec_of_effect rfl hq hbody hu
    have hcu : w.cu = { s.cu with timer := if s.cu.phase = .waiting then min 60 (s.cu.timer + 1) else s.cu.timer } := by
      rw [hcounted]
      rfl
    have hconfig : w.config = some c := by
      rw [hcounted]
      exact hc
    refine ⟨w.handOn, hexec, ?_, ?_, ?_, ?_, hcu, ?_, handOn_flip w, handOn_flipPassed w, ?_, ?_, ?_⟩
    · rw [hcounted]
      rfl
    · rw [hcounted]
      rfl
    · rw [hcounted]
      rfl
    · rw [hcounted]
      rfl
    · rw [hcounted]
      rfl
    · have hlock : w.tu.lock = s.tu.lock := by rw [hcounted]; rfl
      rw [← hlock]
      simp [State.handOn]
    · have hsource : w.tu.source = s.tu.source := by rw [hcounted]; rfl
      have hstate : w.mu.state = s.mu.state := by rw [hcounted]; rfl
      have hmembers : w.mu.members = s.mu.members := by rw [hcounted]; rfl
      have hiff := lostSource_iff w
      rw [self_of_config w c hconfig, hsource, hstate, hmembers] at hiff
      exact Option.isSome_iff_exists.trans (exists_congr hiff)
    · have hphase : w.cu.phase = s.cu.phase := by rw [hcu]
      rw [← hphase, ← readyLimit_of_config w c hconfig]
      simp [State.handOn]

/-! ## The flip test (R105, R108, R134) -/

theorem flipFrameReached_iff (count flipFrame : FrameCount) :
    flipFrameReached count flipFrame = true ↔
      (count - flipFrame).toNat < 2 ^ 31 ∨ (9 ≤ (flipFrame - count).toNat ∧ (flipFrame - count).toNat ≤ 2 ^ 31) := by
  rw [flipFrameReached, Bool.or_eq_true, decide_eq_true_iff, decide_eq_true_iff]

theorem flipDrained_iff (s : State) (p : Epoch) :
    s.flipDrained p = true ↔
      (∀ e ∈ s.fs.inbound, e.epoch ≠ p) ∧ (∀ o, s.fs.operation = some o → o.epoch ≠ p) ∧
        (∀ r, s.we.localRun = some r → r.epoch ≠ p) ∧ (∀ j, s.we.job = some j → j.epoch ≠ p) ∧ s.fs.carry = [] := by
  simp [State.flipDrained, and_assoc, Option.all_eq_true]

/-- Settles O37: test by test. -/
theorem flipTestAsksForTheFrameAndTheRows : Obligations.FlipTestAsksForTheFrameAndTheRows := by
  refine ⟨fun s l hl => ⟨?flip, ?passed⟩, fun s hnone => ⟨?noFlip, ?noPassed⟩⟩
  case flip =>
    rw [State.flipTest, hl]
    dsimp only
    rw [Bool.and_eq_true, Bool.and_eq_true, Bool.and_eq_true, decide_eq_true_iff, flipFrameReached_iff, flipDrained_iff]
  case passed =>
    rw [State.flipPassedTest, hl]
    dsimp only
    rw [Bool.and_eq_true, Bool.or_eq_true, decide_eq_true_iff, decide_eq_true_iff, flipFrameReached_iff]
  case noFlip => rw [State.flipTest, hnone, Bool.and_false]
  case noPassed => rw [State.flipPassedTest, hnone, Bool.and_false]

/-! ## VERTICAL_BLANK_END, PRS_RELEASE and the panel output (R68, R79, R120, R122, R185) -/

/-- The end of a blank as the time that R79 gives: the nominal end corrected, not before one line time is over. -/
theorem blankEnd_cast (c : Configuration) (g : Generator) :
    (g.blankEnd c : Int) =
      max ((g.blankStart : Int) + c.lineTime) (g.blankStart + c.blank * c.lineTime + g.correction.getD 0) := by
  unfold Generator.blankEnd
  push_cast
  omega

theorem blankEndDue_of_blank (s : State) (c : Configuration) (g : Generator) (hc : s.config = some c)
    (hg : s.tu.generator = some g) (ha : g.activeSince = none) : s.blankEndDue = decide (g.blankEnd c ≤ s.now) := by
  simp only [State.blankEndDue, hc, hg, ha]

theorem prsReleaseBody_of_prs (s : State) (t : Nat) (h : s.lp.prs = some t) :
    s.prsReleaseBody = if t ≤ s.now then s.setLp { s.lp with prs := none } else s := by
  rw [State.prsReleaseBody, h]

theorem panelPins_of_stopped (s : State) (fine : Nat) (h : s.config = none ∨ s.tu.generator = none) :
    s.panelPins fine = PanelPins.stopped := by
  unfold State.panelPins
  obtain h | h := h
  · rw [h]
  · rw [h]
    cases s.config <;> rfl

/-- The line of a blank or of the active rows in which a moment lies. -/
theorem line_of_between {start lineTime line now : Nat} (hlow : start + line * lineTime ≤ now)
    (hhigh : now < start + (line + 1) * lineTime) :
    (now - start) / lineTime = line ∧ now - start - line * lineTime = now - (start + line * lineTime) ∧
      (now - start) % lineTime = now - (start + line * lineTime) := by
  have hdiv : (now - start) / lineTime = line := Nat.div_eq_of_lt_le (by omega) (by omega)
  have hmod := Nat.div_add_mod' (now - start) lineTime
  rw [hdiv] at hmod
  exact ⟨hdiv, by omega, by omega⟩

/-- The panel output in a line of the blank. -/
theorem panelPins_of_blank (s : State) (fine : Nat) (c : Configuration) (g : Generator) (line : Nat) (hc : s.config = some c)
    (hg : s.tu.generator = some g) (ha : g.activeSince = none) (hline : line < c.blank)
    (hlow : g.blankStart + line * c.lineTime ≤ s.now) (hhigh : s.now < g.blankStart + (line + 1) * c.lineTime) :
    s.panelPins fine =
      { pclkRuns := true, hsync := decide ((s.now - (g.blankStart + line * c.lineTime)) * 8 + fine < 32),
        vsync := decide (line < 2), de := false, rgb := 0#24 } := by
  obtain ⟨hdiv, hsub, -⟩ := line_of_between hlow hhigh
  simp only [State.panelPins, hc, hg, ha, hdiv, Nat.min_eq_left (Nat.le_sub_one_of_lt hline), hsub]

/-- The panel output in an active row. -/
theorem panelPins_of_active (s : State) (fine : Nat) (c : Configuration) (g : Generator) (line a period : Nat)
    (hc : s.config = some c) (hg : s.tu.generator = some g) (ha : g.activeSince = some a)
    (hline : line < c.map.ownTile.height) (hlow : a + line * c.lineTime ≤ s.now)
    (hhigh : s.now < a + (line + 1) * c.lineTime) (hperiod : period = (s.now - (a + line * c.lineTime)) * 8 + fine) :
    s.panelPins fine =
      { pclkRuns := true, hsync := decide (period < 32), vsync := false,
        de := decide (80 ≤ period ∧ period < 80 + c.map.ownTile.width),
        rgb := if 80 ≤ period ∧ period < 80 + c.map.ownTile.width then s.scanPixel line (period - 80) else 0#24 } := by
  obtain ⟨hdiv, -, hmod⟩ := line_of_between hlow hhigh
  simp only [State.panelPins, hc, hg, ha, hdiv, hmod, ← hperiod, hline, true_and, decide_eq_true_eq]

theorem background_of_config (s : State) (c : Configuration) (h : s.config = some c) : s.background = c.background := by
  rw [State.background, h]

/-- Settles O38: the two times, and the panel line by line. -/
theorem blankEndAndPrsReleaseComeInTime : Obligations.BlankEndAndPrsReleaseComeInTime := by
  refine ⟨fun dt s hq => ⟨fun c g ending hc hg ha hending => ?blankEnd, fun t ht => ?prs⟩, fun s fine _ =>
    ⟨panelPins_of_stopped s fine, fun c g line period hc hg => ⟨fun ha hline hlow hhigh hperiod => ?blank,
      fun a ha hline hlow hhigh hperiod => ?active⟩⟩⟩
  case blankEnd =>
    have hdue := blankEndDue_of_blank (s.advance dt) c g hc hg ha
    rw [← blankEnd_cast] at hending
    have hiff : ending ≤ s.now + dt ↔ g.blankEnd c ≤ (s.advance dt).now := by
      rw [hending, show (s.advance dt).now = s.now + dt from rfl]
      omega
    refine ⟨fun hcome => ?_, fun hearly => ?_⟩
    · have hbody : (s.advance dt).blankEndBody = (s.advance dt).setTu { s.tu with
          generator := s.tu.generator.map (fun g => { g with activeSince := some (s.now + dt) }) } :=
        if_pos (hdue.trans (decide_eq_true (hiff.mp hcome)))
      rw [hg, Option.map_some] at hbody
      exact exec_of_effect (c := .verticalBlankEnd dt) rfl hq hbody (unraised_of_quiet s hq)
    · refine exec_of_idle (c := .verticalBlankEnd dt) rfl hq (if_neg ?_)
      rw [hdue, decide_eq_true_eq, ← hiff]
      exact Int.not_le.mpr hearly
  case prs =>
    have hbody := prsReleaseBody_of_prs (s.advance dt) t ht
    refine ⟨fun hcome => ?_, fun hearly => ?_⟩
    · exact exec_of_effect (c := .prsRelease dt) rfl hq (hbody.trans (if_pos hcome)) (unraised_of_quiet s hq)
    · exact exec_of_idle (c := .prsRelease dt) rfl hq (hbody.trans (if_neg (Nat.not_le.mpr hearly)))
  case blank =>
    rw [hperiod]
    exact panelPins_of_blank s fine c g line hc hg ha hline hlow hhigh
  case active =>
    have hscan : s.scanPixel line (period - 80) = (match s.fs.showState with
        | .background => c.background
        | .front =>
          if s.fs.clear.any (fun k => k.row ≤ line) then c.background
          else readPixel (s.fs.bank s.fs.front) line (period - 80)) := by
      rw [← background_of_config s c hc]
      unfold State.scanPixel State.bankPixel
      cases s.fs.showState with
      | background => rfl
      | front =>
        cases s.fs.clear with
        | none => rfl
        | some k => simp
    have hpins := panelPins_of_active s fine c g line a period hc hg ha hline hlow hhigh hperiod
    rw [hscan] at hpins
    exact hpins

/-! ## Phase error and lock (R76, R78) -/

/-- Settles O39: by the side on which the raw difference lies. -/
theorem phaseErrorIsHalvedLockedAndLimited : Obligations.PhaseErrorIsHalvedLockedAndLimited := by
  refine ⟨fun raw p hp hlow hhigh => ?phase, fun e lt => ⟨fun hin => ?locked, fun hbig => ?high, fun hbig => ?low⟩⟩
  case phase =>
    intro q
    have hq : q = phaseError raw p := rfl
    unfold phaseError at hq
    split at hq
    · rw [hq]
      dsimp only
      omega
    · split at hq
      · rw [hq]
        dsimp only
        omega
      · rw [hq]
        dsimp only
        omega
  all_goals unfold lockAndCorrection limited
  case locked => rw [if_pos (by omega)]
  case high =>
    rw [if_neg (by omega), Prod.mk.injEq]
    refine ⟨rfl, ?_⟩
    omega
  case low =>
    rw [if_neg (by omega), Prod.mk.injEq]
    refine ⟨rfl, ?_⟩
    omega

/-! ## Holdoffs (R33, R158, R163) -/

theorem holdoff_of_seven_le (n : Nat) (h : 7 ≤ n) : holdoff n = 12800 := by
  have hpow : 2 ^ 6 ≤ 2 ^ (n - 1) := Nat.pow_le_pow_right (by decide) (by omega)
  have hlimit : Config.holdoffLimit = 12800 := rfl
  have hfirst : Config.holdoffFirst = 200 := rfl
  rw [holdoff, hlimit, hfirst]
  omega

theorem expired_of_come (r : Retry) (expiry now : Nat) (hr : r.expiry = some expiry) (h : expiry ≤ now) :
    r.expired now = { r with expiry := none } := by
  simp only [Retry.expired, Retry.inHoldoff, hr, decide_eq_true_eq]
  exact if_neg (Nat.not_lt.mpr h)

theorem expired_of_early (r : Retry) (expiry now : Nat) (hr : r.expiry = some expiry) (h : now < expiry) :
    r.expired now = r := by
  simp only [Retry.expired, Retry.inHoldoff, hr, decide_eq_true_eq]
  exact if_pos h

theorem holdoffExpiryBody_of_retry (s : State) (slot : ControlSlot) (r : Retry) (h : s.lc.slots.retry slot = some r) :
    s.holdoffExpiryBody slot = s.setSlots (s.lc.slots.setRetry slot (r.expired s.now)) := by
  rw [State.holdoffExpiryBody, h]

/-- The attempt count and holdoff just written are those of the slot, which is occupied still. -/
theorem retry_setRetry (v : Slots) (slot : ControlSlot) (r r' : Retry) (h : v.retry slot = some r) :
    (v.setRetry slot r').retry slot = some r' := by
  cases slot with
  | drop =>
    obtain ⟨d, hd, -⟩ := Option.map_eq_some_iff.mp h
    simp [Slots.setRetry, Slots.retry, hd]
  | leave => simp [Slots.setRetry, Slots.retry, show v.leave = some r from h]
  | join => simp [Slots.setRetry, Slots.retry, show v.join = some r from h]
  | ready =>
    obtain ⟨d, hd, -⟩ := Option.map_eq_some_iff.mp h
    simp [Slots.setRetry, Slots.retry, hd]

/-- What stands in a slot, written again. -/
theorem setRetry_self (v : Slots) (slot : ControlSlot) (r : Retry) (h : v.retry slot = some r) : v.setRetry slot r = v := by
  obtain ⟨beacon, drop, leave, join, ready⟩ := v
  cases slot with
  | drop =>
    obtain ⟨d, rfl, rfl⟩ := Option.map_eq_some_iff.mp h
    rfl
  | leave =>
    obtain rfl : leave = some r := h
    rfl
  | join =>
    obtain rfl : join = some r := h
    rfl
  | ready =>
    obtain ⟨d, rfl, rfl⟩ := Option.map_eq_some_iff.mp h
    rfl

/-- Settles O42: the powers of two up to the limit, and the two expiries by whether they have come. -/
theorem holdoffsDoubleAndExpire : Obligations.HoldoffsDoubleAndExpire := by
  refine ⟨⟨rfl, rfl, rfl, rfl, rfl, rfl, holdoff_of_seven_le⟩, fun dt s r expiry hq hr => ⟨fun slot hslot => ?slot, fun x hx =>
    ?addressee⟩⟩
  case slot =>
    have hbody := holdoffExpiryBody_of_retry (s.advance dt) slot r hslot
    refine ⟨fun hcome => ⟨?_, retry_setRetry s.lc.slots slot r _ hslot⟩, fun hearly => ?_⟩
    · rw [expired_of_come r expiry (s.advance dt).now hr hcome] at hbody
      exact exec_of_effect (c := .holdoffExpiry dt slot) rfl hq hbody (unraised_of_quiet s hq)
    · rw [expired_of_early r expiry (s.advance dt).now hr hearly, setRetry_self (s.advance dt).lc.slots slot r hslot] at hbody
      exact exec_of_idle (c := .holdoffExpiry dt slot) rfl hq hbody
  case addressee =>
    have hbody : (s.advance dt).addresseeExpiryBody x = (s.advance dt).setAddressee x (r.expired (s.now + dt)) := by
      rw [← hx]
      rfl
    refine ⟨fun hcome => ?_, fun hearly => ?_⟩
    · rw [expired_of_come r expiry _ hr hcome] at hbody
      exact exec_of_effect (c := .addresseeHoldoffExpiry dt x) rfl hq hbody (unraised_of_quiet s hq)
    · have hself : (s.advance dt).setAddressee x r = s.advance dt := by
        have hset : s.lc.addressees.set x.val r x.isLt = s.lc.addressees := by
          rw [← hx]
          exact Vector.set_getElem_self x.isLt
        have hstate : (s.advance dt).setAddressee x r =
            (s.advance dt).setLc { s.lc with addressees := s.lc.addressees.set x.val r x.isLt } := rfl
        rw [hstate, hset]
        rfl
      rw [expired_of_early r expiry _ hr hearly, hself] at hbody
      exact exec_of_idle (c := .addresseeHoldoffExpiry dt x) rfl hq hbody

end Sys2Proof.Machine

/-! PROOFS. The Frame Store's rows (chapter 6): the bank clear and the bank writer. -/

namespace Sys2Proof.Machine

/-! ## What a write leaves to be read (R117, R118) -/

/-- A pixel after a write that lies inside the bank. -/
theorem readPixel_writePixels (m : Memory) (row start : Nat) (ps : List Pixel) (r c : Nat) (hrow : row < 320)
    (hin : start + ps.length ≤ 512) (hc : c < 512) :
    readPixel (writePixels m row start ps) r c =
      if r = row ∧ start ≤ c ∧ c < start + ps.length then ps.getD (c - start) 0#24 else readPixel m r c := by
  by_cases h : r = row ∧ start ≤ c ∧ c < start + ps.length
  · obtain ⟨rfl, hlow, hhigh⟩ := h
    have hi : c - start < ps.length := by omega
    have hread := readPixel_writePixels_inside m r start ps (c - start) hi hrow hin
    rw [Nat.add_sub_cancel' hlow] at hread
    rw [if_pos ⟨rfl, hlow, hhigh⟩, hread, List.getD_eq_getElem _ _ hi]
  · rw [if_neg h]
    exact readPixel_writePixels_outside m row start ps r c hc (by omega)

theorem bank_setBank (f : FrameStore) (bank bank' : Bank) (m : Memory) :
    (f.setBank bank m).bank bank' = if bank' = bank then m else f.bank bank' := by
  cases bank <;> cases bank' <;> rfl

/-- The contents of one bank alone are replaced. -/
theorem setBank_eq (f : FrameStore) (bank : Bank) (m : Memory) :
    f.setBank bank m = { f with bankA := (f.setBank bank m).bankA, bankB := (f.setBank bank m).bankB } := by
  cases bank <;> rfl

/-! ## The bank clear (R121) -/

/-- The next row of the bank clear takes its time from the line time. -/
theorem bankClearRowBody_of_due (s : State) (k : BankClear) (c : Configuration) (hk : s.fs.clear = some k)
    (hc : s.config = some c) (hrow : k.row < 320) (hdue : k.begun + (k.row + 1) * c.lineTime ≤ s.now) :
    s.bankClearRowBody = s.clearRow k := by
  have hline : s.lineTime = c.lineTime := by rw [State.lineTime, hc]
  have hclear : s.clearDue = some k := by
    rw [State.clearDue, hk, Option.filter_some, if_pos]
    rw [hline]
    exact decide_eq_true ⟨hrow, hdue⟩
  rw [State.bankClearRowBody, hclear]

theorem bankClearRowBody_of_early (s : State) (k : BankClear) (c : Configuration) (hk : s.fs.clear = some k)
    (hc : s.config = some c) (hearly : s.now < k.begun + (k.row + 1) * c.lineTime) : s.bankClearRowBody = s := by
  have hline : s.lineTime = c.lineTime := by rw [State.lineTime, hc]
  have hclear : s.clearDue = none := by
    rw [State.clearDue, hk, Option.filter_some, if_neg]
    rw [hline, decide_eq_true_eq]
    exact fun h => absurd h.2 (Nat.not_le.mpr hearly)
  rw [State.bankClearRowBody, hclear]

/-- A cleared row reads as the background colour, every other as before. -/
theorem readPixel_clearRow (s : State) (k : BankClear) (bank : Bank) (row col : Nat) (hrow : k.row < 320) (hcol : col < 512) :
    readPixel ((s.clearRow k).fs.bank bank) row col =
      if row = k.row then s.background else readPixel (s.fs.bank bank) row col := by
  have hbank : (s.clearRow k).fs.bank bank = writePixels (s.fs.bank bank) k.row 0 (List.replicate 512 s.background) := by
    cases bank <;> rfl
  have hlen : (List.replicate 512 s.background).length = 512 := List.length_replicate
  rw [hbank, readPixel_writePixels _ _ _ _ _ _ hrow (by rw [hlen]) hcol, hlen]
  by_cases h : row = k.row
  · rw [if_pos ⟨h, by omega, by omega⟩, if_pos h]
    exact List.getD_replicate _ (by omega)
  · rw [if_neg (fun hand => h hand.1), if_neg h]

theorem clearOver_of_clear (s : State) (k : BankClear) (h : s.fs.clear = some k) : s.clearOver = decide (320 ≤ k.row) := by
  rw [State.clearOver, h]
  rfl

/-- Settles O54: row by row at the line time, and the end after the last. -/
theorem bankClearWritesOneRowOfBothBanks : Obligations.BankClearWritesOneRowOfBothBanks := by
  refine ⟨fun dt s k c hq hk hc hrow => ⟨fun hdue => ?row, fun hearly => ?early⟩, fun s k hs hk => ⟨fun hover => ?ended,
    fun hnot => ?running⟩⟩
  case row =>
    have hbody := bankClearRowBody_of_due (s.advance dt) k c hk hc hrow hdue
    refine ⟨(s.advance dt).clearRow k, exec_of_effect (c := .bankClearRow dt) rfl hq hbody (unraised_of_quiet s hq), rfl,
      fun bank row col _ hcol => ?_⟩
    rw [← background_of_config (s.advance dt) c hc]
    exact readPixel_clearRow (s.advance dt) k bank row col hrow hcol
  case early =>
    exact exec_of_idle (c := .bankClearRow dt) rfl hq (bankClearRowBody_of_early (s.advance dt) k c hk hc hearly)
  case ended =>
    have hbody : s.bankClearEndBody = s.setFs { s.fs with clear := none } :=
      if_pos ((clearOver_of_clear s k hk).trans (decide_eq_true hover))
    exact exec_of_followOn (c := .bankClearEnd) rfl hbody hs
  case running =>
    refine exec_of_followOn (c := .bankClearEnd) rfl (if_neg ?_) hs
    rw [clearOver_of_clear s k hk, decide_eq_true_eq]
    exact Nat.not_le.mpr hnot

/-! ## BANK_WRITER_GRANT (R123 to R127, R132) -/

/-- The applier presents its head when that is of the back-bank epoch (R132). -/
theorem holdsRequest_inbound_iff (s : State) :
    s.holdsRequest .inbound = true ↔
      ∃ h rest r, s.fs.inbound = h :: rest ∧ s.cu.record = some r ∧ h.leaving = false ∧ h.epoch = r.backEpoch := by
  cases hin : s.fs.inbound with
  | nil => simp [State.holdsRequest, hin]
  | cons h rest =>
    cases hr : s.cu.record with
    | none => simp [State.holdsRequest, State.backEpoch, hin, hr]
    | some r =>
      simp only [State.holdsRequest, State.backEpoch, hin, hr, Option.map_some, Bool.and_eq_true, Bool.not_eq_true',
        beq_iff_eq, Option.some.injEq]
      refine ⟨fun ⟨hl, he⟩ => ⟨h, rest, r, rfl, rfl, hl, he.symm⟩, ?_⟩
      rintro ⟨h', rest', r', hh, rfl, hl, he⟩
      obtain ⟨rfl, -⟩ := List.cons.inj hh
      exact ⟨hl, he.symm⟩

/-- A head of the epoch after the back-bank epoch is held. -/
theorem holdsRequest_inbound_of_next (s : State) (h : InEntry) (rest : List InEntry) (r : Record)
    (hin : s.fs.inbound = h :: rest) (hr : s.cu.record = some r) (he : h.epoch = r.backEpoch + 1) :
    s.holdsRequest .inbound = false := by
  refine Bool.eq_false_iff.mpr fun hholds => ?_
  obtain ⟨h', rest', r', hin', hr', -, he'⟩ := (holdsRequest_inbound_iff s).mp hholds
  obtain ⟨rfl, -⟩ := List.cons.inj (hin.symm.trans hin')
  obtain rfl := Option.some.inj (hr.symm.trans hr')
  rw [he] at he'
  bv_omega

/-- The cycle from the last served on: the others in their order, and the last served again. -/
theorem cycleAfter_eq (q : Requester) :
    cycleAfter q = (cycleAfter q).dropLast ++ [q] ∧ ∀ p, p ∈ (cycleAfter q).dropLast ↔ p ≠ q := by
  cases q <;> refine ⟨rfl, fun p => ?_⟩ <;> cases p <;> decide

/-- The last served is granted again only when no other holds a request. -/
theorem nextRequester_lastServed (s : State) (h : s.nextRequester = some s.fs.lastServed) (p : Requester)
    (hp : p ≠ s.fs.lastServed) : s.holdsRequest p = false := by
  obtain ⟨hcycle, hothers⟩ := cycleAfter_eq s.fs.lastServed
  rw [State.nextRequester, hcycle, List.find?_append] at h
  cases hfound : (cycleAfter s.fs.lastServed).dropLast.find? s.holdsRequest with
  | none => exact Bool.eq_false_iff.mpr (List.find?_eq_none.mp hfound p ((hothers p).mpr hp))
  | some q =>
    rw [hfound] at h
    have hq : q = s.fs.lastServed := Option.some.inj h
    exact absurd hq ((hothers q).mp (List.mem_of_find?_eq_some hfound))

/-- Twice the cycle holds, from the last served on, the cycle after it. -/
theorem dropWhile_cycle (q : Requester) :
    ∃ rest, [Requester.stream, .localFill, .inbound, .carry, .stream, .localFill, .inbound, .carry].dropWhile (· ≠ q) =
      q :: cycleAfter q ++ rest := by
  cases q <;> exact ⟨_, rfl⟩

/-- The requesters between the last served and the next hold no request. -/
theorem nextRequester_before (s : State) (q : Requester) (h : s.nextRequester = some q) :
    ∃ before after, [Requester.stream, .localFill, .inbound, .carry, .stream, .localFill, .inbound, .carry].dropWhile
        (· ≠ s.fs.lastServed) = s.fs.lastServed :: before ++ q :: after ∧
      ∀ p ∈ before, s.holdsRequest p = false := by
  obtain ⟨-, before, after, hsplit, hbefore⟩ := List.find?_eq_some_iff_append.mp h
  obtain ⟨rest, hrest⟩ := dropWhile_cycle s.fs.lastServed
  refine ⟨before, after ++ rest, ?_, fun p hp => by simpa using hbefore p hp⟩
  rw [hrest, hsplit]
  simp

/-- A granted operation begins in the back bank, with its carry when its row is still to be carried (R124, R125, R127). -/
theorem beginOperation_eq (s : State) (q : Requester) (epoch : Epoch) (row start : Nat) (pixels : List Pixel)
    (h : s.requested q = some (epoch, row, start, pixels)) :
    s.beginOperation q =
      s.setFs { s.fs with
        lastServed := q,
        operation := some { requester := q, epoch := epoch, row := row, start := start, pixels := pixels,
                            bank := s.fs.front.other, onDemand := decide (q ≠ .carry ∧ row ∈ s.fs.carry) },
        dirty := if q = .carry ∨ row ∈ s.fs.carry then s.fs.dirty else insertRow row s.fs.dirty } := by
  have hdemand : (q != .carry && s.fs.carry.contains row) = decide (q ≠ .carry ∧ row ∈ s.fs.carry) := by
    rw [Bool.eq_iff_iff]
    simp
  unfold State.beginOperation
  rw [h]
  dsimp only
  rw [hdemand]
  by_cases hq : q = .carry
  · rw [if_neg (by simp [hq]), FrameStore.dirtied, if_pos hq, if_pos (.inl hq)]
    rfl
  · by_cases hrow : row ∈ s.fs.carry
    · rw [if_pos (by simp [hq, hrow]), if_pos (.inr hrow)]
      rfl
    · rw [if_neg (by simp [hrow]), FrameStore.dirtied, if_neg hq, if_neg (by simp [hq, hrow])]
      rfl

/-- With an operation in progress, or no request, nothing is granted. -/
theorem grantBody_of_nothing (s : State) (h : s.fs.operation.isSome ∨ ∀ q, s.holdsRequest q = false) : s.grantBody = s := by
  have hdue : s.grantDue = none := by
    unfold State.grantDue
    split
    · rfl
    · rename_i hidle
      refine List.find?_eq_none.mpr fun q _ => ?_
      exact Bool.eq_false_iff.mp (h.resolve_left hidle q)
  rw [State.grantBody, hdue]

theorem grantBody_of_next (s : State) (q : Requester) (hidle : s.fs.operation = none) (h : s.nextRequester = some q) :
    s.grantBody = s.beginOperation q := by
  have hdue : s.grantDue = some q := by
    rw [State.grantDue, hidle]
    exact h
  rw [State.grantBody, hdue]

/-- Settles O55: who holds a request, whose turn it is, and the operation that begins. -/
theorem bankWriterGrantsInRotation : Obligations.BankWriterGrantsInRotation := by
  refine ⟨fun s => ⟨?stream, ?fill, ?carry, holdsRequest_inbound_iff s, fun h rest r => holdsRequest_inbound_of_next s h rest r⟩,
    fun s hs hnot => ?nothing, fun s q hs hidle hnext => ?grant⟩
  case stream => exact Option.isSome_iff_ne_none
  case fill => exact Option.isSome_iff_ne_none
  case carry => simp [State.holdsRequest]
  case nothing => exact exec_of_followOn (c := .bankWriterGrant) rfl (grantBody_of_nothing s hnot) hs
  case grant =>
    have hholds := holdsRequest_of_nextRequester s q hnext
    obtain ⟨epoch, row, start, pixels, hreq⟩ := requested_of_holdsRequest s q hholds
    refine ⟨hholds, fun hq p hp => ?_, fun cycle hcycle => ?_, epoch, row, start, pixels, hreq, ?_⟩
    · subst hq
      exact nextRequester_lastServed s hnext p hp
    · subst hcycle
      exact nextRequester_before s q hnext
    · exact exec_of_followOn (c := .bankWriterGrant) rfl
        ((grantBody_of_next s q hidle hnext).trans (beginOperation_eq s q epoch row start pixels hreq)) hs

/-! ## BANK_WRITER_OP_END (R118, R123, R125, R129, R132, R133) -/

/-- The Frame Store once an operation's pixels have landed. -/
def FrameStore.landed (f : FrameStore) (o : Operation) (start : Nat) (pixels : List Pixel) : FrameStore :=
  f.setBank o.bank (writePixels (f.bank o.bank) o.row start pixels)

theorem landed_eq (f : FrameStore) (o : Operation) (start : Nat) (pixels : List Pixel) :
    f.landed o start pixels =
      { f with bankA := (f.landed o start pixels).bankA, bankB := (f.landed o start pixels).bankB } := setBank_eq _ _ _

/-- The pixels that have landed are read back; every other pixel of both banks reads as before. -/
theorem readPixel_landed (f : FrameStore) (o : Operation) (start : Nat) (pixels : List Pixel) (bank : Bank) (row col : Nat)
    (hrow : o.row < 320) (hin : start + pixels.length ≤ 512) (hcol : col < 512) :
    readPixel ((f.landed o start pixels).bank bank) row col =
      if bank = o.bank ∧ row = o.row ∧ start ≤ col ∧ col < start + pixels.length then pixels.getD (col - start) 0#24
      else readPixel (f.bank bank) row col := by
  rw [FrameStore.landed, bank_setBank]
  by_cases hb : bank = o.bank
  · rw [if_pos hb, readPixel_writePixels _ _ _ _ _ _ hrow hin hcol]
    by_cases h : row = o.row ∧ start ≤ col ∧ col < start + pixels.length
    · rw [if_pos h, if_pos ⟨hb, h⟩]
    · rw [if_neg h, if_neg fun hand => h hand.2, hb]
  · rw [if_neg hb, if_neg fun hand => hb hand.1]

/-- The state at the end of an operation, before the requester is told: slots latched, pixels landed. -/
def State.landedState (s : State) (inVerdict : Bool) (o : Operation) (start : Nat) (pixels : List Pixel) : State :=
  (s.latchSlots inVerdict).setFs (s.fs.landed o start pixels)

theorem operationEndBody_of_operation (s : State) (inVerdict : Bool) (o : Operation) (start : Nat) (pixels : List Pixel)
    (ho : s.fs.operation = some o) (hw : (start, pixels) = s.operationWrite o) :
    s.operationEndBody inVerdict =
      if o.onDemand then (s.landedState inVerdict o start pixels).beginWrite o
      else ((s.landedState inVerdict o start pixels).setFs
        { (s.fs.landed o start pixels) with operation := none }).tell o := by
  have hwrite : (s.latchSlots inVerdict).operationWrite o = (start, pixels) := by
    rw [hw, latchSlots_eq]
    rfl
  have hfs : (s.latchSlots inVerdict).fs = s.fs := by rw [latchSlots_eq]; rfl
  have hland : (s.latchSlots inVerdict).landOperation o = s.landedState inVerdict o start pixels := by
    rw [State.landOperation, hwrite, State.writeBank, hfs]
    rfl
  rw [State.operationEndBody, ho]
  dsimp only
  rw [hland]
  rfl

/-- The carry on demand has ended and its write begins (R125, R127). -/
theorem beginWrite_eq (s : State) (o : Operation) :
    s.beginWrite o =
      s.setFs { s.fs with
        carry := s.fs.carry.erase o.row, operation := some { o with onDemand := false, bank := s.fs.front.other },
        dirty := if o.requester = .carry then s.fs.dirty else insertRow o.row s.fs.dirty } := by
  unfold State.beginWrite FrameStore.dirtied
  dsimp only
  by_cases h : o.requester = .carry
  · rw [if_pos h, if_pos h]
    rfl
  · rw [if_neg h, if_neg h]
    rfl

/-- The local fill requester goes to its next row or ends (R153). -/
theorem fillTold_eq (s : State) :
    s.fillTold = s.setWe { s.we with job := s.we.job.bind (fun j =>
      if j.nextRow < j.rect.y1 then some { j with nextRow := j.nextRow + 1 } else none) } := by
  have hjob : (fun j : FillJob => if j.rect.y1 ≤ j.nextRow then none else some { j with nextRow := j.nextRow + 1 }) =
      fun j => if j.nextRow < j.rect.y1 then some { j with nextRow := j.nextRow + 1 } else none := by
    funext j
    by_cases h : j.nextRow < j.rect.y1
    · rw [if_neg (Nat.not_le.mpr h), if_pos h]
    · rw [if_pos (Nat.not_lt.mp h), if_neg h]
  rw [State.fillTold, hjob]

/-- The inbound queue once its head has been told. -/
def FrameStore.inboundAfter (f : FrameStore) : List InEntry :=
  match f.inbound with
  | [] => []
  | h :: rest =>
    if h.leaving = false ∧ h.rowsDone + 1 < h.paint.rows then { h with rowsDone := h.rowsDone + 1 } :: rest else rest

theorem inboundAfter_of_cons (f : FrameStore) (h : InEntry) (rest : List InEntry) (hin : f.inbound = h :: rest) :
    f.inboundAfter =
      if h.leaving = false ∧ h.rowsDone + 1 < h.paint.rows then { h with rowsDone := h.rowsDone + 1 } :: rest else rest := by
  rw [FrameStore.inboundAfter, hin]

theorem inboundTold_eq (s : State) : s.inboundTold = s.setFs { s.fs with inbound := s.fs.inboundAfter } := by
  unfold State.inboundTold FrameStore.inboundAfter
  rcases hin : s.fs.inbound with _ | ⟨h, rest⟩
  · exact congrArg s.setFs (show s.fs = { s.fs with inbound := [] } by rw [← hin])
  · dsimp only
    by_cases hstay : h.leaving = false ∧ h.rowsDone + 1 < h.paint.rows
    · rw [if_pos hstay, if_neg (by simp [hstay.1]; exact hstay.2)]
    · rw [if_neg hstay, if_pos]
      by_cases hl : h.leaving = true
      · exact .inl hl
      · exact .inr (Nat.not_lt.mp fun hlt => hstay ⟨Bool.eq_false_iff.mpr hl, hlt⟩)

/-- The row carried leaves the carry list, and nothing else is told. -/
theorem carried_eq (s : State) (row : Nat) : s.carried row = s.setFs { s.fs with carry := s.fs.carry.erase row } := rfl

/-- The builder once the first local run that waits is presented (R147). -/
def Window.nextLocal (w : Window) : Window := { w with localRun := w.waitingLocals.head?, waitingLocals := w.waitingLocals.tail }

theorem streamTold_eq (s : State) : s.streamTold = s.setWe s.we.nextLocal := rfl

theorem nextLocal_of_nil (w : Window) (h : w.waitingLocals = []) : w.nextLocal = { w with localRun := none } := by
  simp [Window.nextLocal, h]

theorem nextLocal_of_cons (w : Window) (r : Run) (more : List Run) (h : w.waitingLocals = r :: more) :
    w.nextLocal = { w with localRun := some r, waitingLocals := more } := by
  simp [Window.nextLocal, h]

/-- An operation's end is no part of what the end of an event looks at. -/
theorem State.Unraised.operationEndBody {s : State} (h : s.Unraised) (inVerdict : Bool) :
    (s.operationEndBody inVerdict).Unraised :=
  h.of_view (by simp) (by simp) (by simp)

/-- Settles O56: what lands, and by the requester what it is told. -/
theorem bankWriterWritesAndTellsTheRequester : Obligations.BankWriterWritesAndTellsTheRequester := by
  intro dt inVerdict s o start pixels l hq ho hw hrow hin hl
  refine ⟨fun hcarry => ?carriedWrite, fun hrequester hdemand => ?ownWrite, ?ends⟩
  case carriedWrite =>
    rw [State.operationWrite, if_pos hcarry] at hw
    exact Prod.mk.inj hw
  case ownWrite =>
    rw [State.operationWrite, if_neg (by simp [hrequester, hdemand])] at hw
    exact Prod.mk.inj hw
  case ends =>
    have hunraised : ((s.advance dt).operationEndBody inVerdict).Unraised :=
      State.Unraised.operationEndBody (s := s.advance dt) (unraised_of_quiet s hq) inVerdict
    have hbody := operationEndBody_of_operation (s.advance dt) inVerdict o start pixels ho hw
    have hlatch : (s.advance dt).latchSlots inVerdict = (s.advance dt).setLc l := by
      rw [latchSlots_eq, hl]
      rfl
    rw [State.landedState, hlatch] at hbody
    have hread := fun bank row col hcol => readPixel_landed s.fs o start pixels bank row col hrow hin hcol
    obtain ⟨bankA, bankB, hlanded⟩ : ∃ a b, s.fs.landed o start pixels = { s.fs with bankA := a, bankB := b } :=
      ⟨_, _, landed_eq s.fs o start pixels⟩
    rw [show (s.advance dt).fs = s.fs from rfl, hlanded] at hbody
    simp only [hlanded] at hread
    obtain ⟨t, ht⟩ : ∃ t, t = (s.advance dt).operationEndBody inVerdict := ⟨_, rfl⟩
    rw [← ht] at hbody hunraised
    refine ⟨t, exec_of_effect (c := .bankWriterOpEnd dt inVerdict) rfl hq ht.symm hunraised, ?_⟩
    cases hdemand : o.onDemand with
    | true =>
      rw [hdemand, if_pos rfl, beginWrite_eq] at hbody
      subst hbody
      exact ⟨rfl, fun bank row col _ hcol => hread bank row col hcol, rfl, fun _ => ⟨rfl, rfl, rfl, rfl, rfl, rfl⟩, nofun⟩
    | false =>
      rw [hdemand, if_neg Bool.false_ne_true, State.tell] at hbody
      cases hrequester : o.requester with
      | stream =>
        simp only [hrequester, streamTold_eq] at hbody
        subst hbody
        refine ⟨rfl, fun bank row col _ hcol => hread bank row col hcol, rfl, nofun, fun _ => ⟨rfl, rfl, rfl, nofun, nofun,
          fun _ => ⟨rfl, rfl, fun hnone => ?_, fun r more hwait => ?_⟩, nofun⟩⟩
        · exact nextLocal_of_nil s.we hnone
        · exact nextLocal_of_cons s.we r more hwait
      | localFill =>
        simp only [hrequester, fillTold_eq] at hbody
        subst hbody
        exact ⟨rfl, fun bank row col _ hcol => hread bank row col hcol, rfl, nofun, fun _ => ⟨rfl, rfl, rfl, nofun,
          fun _ => ⟨rfl, rfl, rfl⟩, nofun, nofun⟩⟩
      | inbound =>
        simp only [hrequester, inboundTold_eq] at hbody
        subst hbody
        refine ⟨rfl, fun bank row col _ hcol => hread bank row col hcol, rfl, nofun, fun _ => ⟨rfl, rfl, rfl, nofun, nofun, nofun,
          fun _ => ⟨rfl, rfl, fun h rest hh => ?_⟩⟩⟩
        exact inboundAfter_of_cons s.fs h rest hh
      | carry =>
        simp only [hrequester, carried_eq] at hbody
        subst hbody
        exact ⟨rfl, fun bank row col _ hcol => hread bank row col hcol, rfl, nofun, fun _ => ⟨rfl, rfl, rfl,
          fun _ => ⟨rfl, rfl, rfl⟩, nofun, nofun, nofun⟩⟩

end Sys2Proof.Machine

/-! PROOFS. The resets (R180, R206) and what a validation that succeeds has made sure of (R200). -/

namespace Sys2Proof.Machine

/-! ## An abandoned operation (R136) -/

/-- A write of pixels touches its row alone. -/
theorem readByte_writePixels_outside (m : Memory) (row start : Nat) (ps : List Pixel) (a : Nat)
    (h : a < pixelAddress row 0 ∨ pixelAddress row 0 + 512 * 3 ≤ a) :
    readByte (writePixels m row start ps) a = readByte m a := by
  unfold writePixels
  split
  · rename_i hin
    have hcolumns : start + ps.length ≤ 512 := hin.2
    have hstart : pixelAddress row start = pixelAddress row 0 + 3 * start := by
      unfold pixelAddress
      ring
    refine readByte_writeRun_outside _ _ _ _ ?_
    rw [flatMap_pixelBytes_length, hstart]
    omega
  · rfl

/-- An abandoned operation changes the banks and the count of free values, and leaves nothing in progress. -/
theorem abandonOperation_eq (s : State) :
    s.abandonOperation = { s with fs := s.abandonOperation.fs, free := s.abandonOperation.free } := by
  unfold State.abandonOperation
  split <;> rfl

theorem abandonOperation_of_none (s : State) (h : s.fs.operation = none) : s.abandonOperation = s := by
  rw [State.abandonOperation, h]

/-- What the row of an abandoned operation does not hold reads as before. -/
theorem readByte_abandonOperation (s : State) (o : Operation) (ho : s.fs.operation = some o) (bank : Bank) (a : Nat)
    (h : bank = o.bank → a < pixelAddress o.row 0 ∨ pixelAddress o.row 0 + 512 * 3 ≤ a) :
    readByte (s.abandonOperation.fs.bank bank) a = readByte (s.fs.bank bank) a := by
  have hbank : s.abandonOperation.fs.bank bank =
      (s.fs.setBank o.bank (writePixels (s.fs.bank o.bank) o.row (s.operationWrite o).1
        (partialPixels s.free 0 (s.operationWrite o).2
          (readRow (s.fs.bank o.bank) o.row (s.operationWrite o).1 (s.operationWrite o).2.length)))).bank bank := by
    rw [State.abandonOperation, ho]
    rfl
  rw [hbank, bank_setBank]
  by_cases hb : bank = o.bank
  · rw [if_pos hb, readByte_writePixels_outside _ _ _ _ _ (h hb), hb]
  · rw [if_neg hb]

/-! ## POWER_ON and the RESET pin (R173, R197, R206) -/

/-- After a reset nothing is raised and nothing is founded. -/
theorem unraised_hardReset (s : State) (low : Bool) : (s.hardReset low).Unraised := ⟨rfl, rfl, rfl⟩

/-- A command whose own part is a hard reset answers it. -/
theorem exec_of_hardReset {c : Instr} {dt : Nat} {s : State} {low : Bool} (hc : timeOf c = some dt) (hq : Quiet s)
    (hb : effectOf c (s.advance dt) = (s.advance dt).hardReset low) : exec c s = .next ((s.advance dt).hardReset low) :=
  exec_of_effect hc hq hb (unraised_hardReset _ low)

/-- Settles O5: by the pin's level, and by what an abandoned operation may leave. -/
theorem powerOnAndResetPinClearEveryBlock : Obligations.PowerOnAndResetPinClearEveryBlock := by
  refine ⟨fun dt s c low hq hc => ?reset, fun dt s hq => ⟨fun hlow => ⟨?assertLow, ?release⟩, fun hhigh => ?releaseHigh⟩⟩
  case reset =>
    have hexec : exec c s = .next ((s.advance dt).hardReset low) := by
      obtain ⟨rfl, rfl⟩ | ⟨rfl, hhigh, rfl⟩ := hc
      · exact exec_of_hardReset (c := .powerOn dt) rfl hq rfl
      · exact exec_of_hardReset (c := .resetPinAssert dt) rfl hq (if_neg (Bool.eq_false_iff.mp hhigh))
    refine ⟨_, hexec, rfl, fun hnone => ?_, fun o ho bank a ha => ?_⟩
    · have habandon := abandonOperation_of_none (s.advance dt) hnone
      have hbankA := congrArg (fun t : State => t.fs.bankA) habandon
      have hbankB := congrArg (fun t : State => t.fs.bankB) habandon
      have hfree := congrArg (fun t : State => t.free) habandon
      exact ⟨hbankA, hbankB, hfree⟩
    · exact readByte_abandonOperation (s.advance dt) o ho bank a ha
  case assertLow => exact exec_of_idle (c := .resetPinAssert dt) rfl hq (if_pos hlow)
  case release => exact exec_of_effect (c := .resetPinRelease dt) rfl hq (if_pos hlow) (unraised_of_quiet s hq)
  case releaseHigh =>
    exact exec_of_idle (c := .resetPinRelease dt) rfl hq (if_neg (Bool.eq_false_iff.mp hhigh))

/-! ## SOFT_RESET (R180) -/

theorem afterSoftReset_of_map (s : State) (c : Configuration) (h : s.config = some c) : s.afterSoftReset = s.enterListen := by
  rw [State.afterSoftReset, h]

theorem afterSoftReset_of_noMap (s : State) (h : s.config = none) :
    s.afterSoftReset = (s.setMu (Membership.reset .loading)).setSl (StartUp.reset s.sl.resetLow) := by
  rw [State.afterSoftReset, h]

theorem freshWindow_of_map (config : Option Configuration) (c : Configuration) (h : config = some c) :
    freshWindow config = Window.reset.home c.map.ownTile := by
  subst h
  rfl

theorem freshWindow_of_noMap (config : Option Configuration) (h : config = none) : freshWindow config = Window.reset := by
  subst h
  rfl

/-- The reset with a map held: LISTEN is entered. -/
theorem softResetBody_of_map (s : State) (c : Configuration) (h : s.config = some c) :
    s.softResetBody =
      { s with
        mu := Membership.reset .listen, lc := Link.reset, tu := { Timing.reset with generator := s.tu.generator },
        cu := Commit.reset,
        fs := { FrameStore.reset s.abandonOperation.fs.bankA s.abandonOperation.fs.bankB with
          clear := some { begun := s.now, row := 0 } },
        we := Window.reset.home c.map.ownTile, lp := { Port.reset with miso := s.lp.miso }, handed := Handed.clear,
        free := s.abandonOperation.free } := by
  have hconfig : s.abandonOperation.config = some c := by simpa using h
  have hheld : s.abandonOperation.mapHeld = true := by rw [State.mapHeld, hconfig]; rfl
  unfold State.softResetBody
  dsimp only
  rw [afterSoftReset_of_map _ c (by exact hconfig), freshWindow_of_map _ c hconfig, hheld, abandonOperation_eq]
  rfl

/-- The reset without a map: LOADING begins afresh. -/
theorem softResetBody_of_noMap (s : State) (h : s.config = none) :
    s.softResetBody =
      { s with
        mu := Membership.reset .loading, lc := Link.reset, tu := Timing.reset, cu := Commit.reset,
        fs := FrameStore.reset s.abandonOperation.fs.bankA s.abandonOperation.fs.bankB, we := Window.reset,
        lp := { Port.reset with miso := s.lp.miso }, sl := StartUp.reset s.sl.resetLow, handed := Handed.clear,
        free := s.abandonOperation.free } := by
  have hconfig : s.abandonOperation.config = none := by simpa using h
  have hheld : s.abandonOperation.mapHeld = false := by rw [State.mapHeld, hconfig]; rfl
  unfold State.softResetBody
  dsimp only
  rw [afterSoftReset_of_noMap _ (by exact hconfig), freshWindow_of_noMap _ hconfig, hheld, abandonOperation_eq]
  rfl

theorem resetLow_of_portReady (s : State) (h : s.portReady = true) : s.sl.resetLow = false := by
  have hnot := (Bool.and_eq_true_iff.mp h).1
  simpa using hnot

/-- Settles O6: by the length and by the map. -/
theorem softResetKeepsTheConfiguration : Obligations.SoftResetKeepsTheConfiguration := by
  intro dt s hq hp
  have hclear : s.handed = Handed.clear := hq.1
  refine ⟨(s.opened dt).abandonOperation.fs.bankA, (s.opened dt).abandonOperation.fs.bankB, (s.opened dt).abandonOperation.free,
    fun hnone => ?idle, fun o ho bank a ha => ?kept, fun c hc => ?map, fun hc => ?noMap, fun tail htail => ?refused⟩
  case idle =>
    have habandon := abandonOperation_of_none (s.opened dt) hnone
    have hbankA := congrArg (fun t : State => t.fs.bankA) habandon
    have hbankB := congrArg (fun t : State => t.fs.bankB) habandon
    have hfree := congrArg (fun t : State => t.free) habandon
    exact ⟨hbankA, hbankB, hfree⟩
  case kept => exact readByte_abandonOperation (s.opened dt) o ho bank a ha
  case map =>
    have hbody := softResetBody_of_map (s.opened dt) c hc
    have hunraised : (s.opened dt).softResetBody.Unraised := by
      rw [hbody]
      exact ⟨rfl, rfl, rfl⟩
    have hexec := exec_of_taken rfl (effectOf_softReset dt ⟨[], false⟩) hq hp
      (exactLength_alone (s.opened dt) State.judgeSoftReset) hunraised
    rw [hbody, ← hclear] at hexec
    exact hexec
  case noMap =>
    have hbody := softResetBody_of_noMap (s.opened dt) hc
    have hunraised : (s.opened dt).softResetBody.Unraised := by
      rw [hbody]
      exact ⟨rfl, rfl, rfl⟩
    have hexec := exec_of_taken rfl (effectOf_softReset dt ⟨[], false⟩) hq hp
      (exactLength_alone (s.opened dt) State.judgeSoftReset) hunraised
    have hlow : (s.opened dt).sl.resetLow = false := resetLow_of_portReady s hp
    rw [hbody, ← hclear, hlow] at hexec
    exact hexec
  case refused => exact exec_of_refused rfl (effectOf_softReset dt tail) hq hp (exactLength_of_more _ _ htail)

/-! ## Validation (R1 to R5, R196, R200) -/

/-- A number spelt by bytes is below 256 to the power of their count. -/
theorem bytesToNat_lt (bs : List Byte) : bytesToNat bs < 256 ^ bs.length := by
  induction bs with
  | nil => exact Nat.one_pos
  | cons b bs ih =>
    have hb : b.toNat + 1 ≤ 256 := b.isLt
    have hmul := Nat.mul_le_mul_right (256 ^ bs.length) hb
    rw [bytesToNat_cons, List.length_cons, Nat.pow_succ]
    rw [Nat.add_mul, Nat.one_mul] at hmul
    omega

/-- A one-byte field is at most 255. -/
theorem field_one_le (bs : List Byte) (i : Nat) : field bs i 1 ≤ 255 := by
  have hlt := bytesToNat_lt ((bs.drop i).take 1)
  have hlen : ((bs.drop i).take 1).length ≤ 1 := List.length_take_le _ _
  have hpow : 256 ^ ((bs.drop i).take 1).length ≤ 256 ^ 1 := Nat.pow_le_pow_right (by decide) hlen
  rw [field]
  omega

/-- A chain of tests that finds no fault has passed its first. -/
theorem of_ite_some_eq_none {α : Type} {p : Prop} [Decidable p] {a : α} {b : Option α} (h : (if p then some a else b) = none) :
    ¬p ∧ b = none := by
  split at h
  · cases h
  · exact ⟨‹_›, h⟩

/-- What R200 has found of an image without a fault. -/
structure ImageSound (records : List ConfigRecord) (covered : List Byte) (crc : BitVec 16) : Prop where
  crc : crcOfBytes covered = crc
  values : ∀ r ∈ records, r.badValue = false
  canvas : (withTag records 0x02#8).isEmpty = false
  panel : (withTag records 0x04#8).isEmpty = false
  ownTile : ∃ t ∈ tilesOf records, t.station = stationIn records
  inside : ∀ t ∈ tilesOf records, t.inCanvas (canvasIn records).1 (canvasIn records).2 = true
  disjoint : ∀ t ∈ tilesOf records, ∀ u ∈ tilesOf records, t.station ≠ u.station → t.overlaps u = false

theorem imageSound_of_noFault (records : List ConfigRecord) (covered : List Byte) (crc : BitVec 16)
    (h : imageFault records covered crc = none) : ImageSound records covered crc := by
  unfold imageFault at h
  obtain ⟨hcrc, h⟩ := of_ite_some_eq_none h
  obtain ⟨hvalues, h⟩ := of_ite_some_eq_none h
  obtain ⟨-, h⟩ := of_ite_some_eq_none h
  obtain ⟨-, h⟩ := of_ite_some_eq_none h
  obtain ⟨hcanvas, h⟩ := of_ite_some_eq_none h
  obtain ⟨hpanel, h⟩ := of_ite_some_eq_none h
  obtain ⟨hown, h⟩ := of_ite_some_eq_none h
  obtain ⟨hinside, h⟩ := of_ite_some_eq_none h
  obtain ⟨hdisjoint, -⟩ := of_ite_some_eq_none h
  refine ⟨not_not.mp hcrc, ?_, Bool.eq_false_iff.mpr hcanvas, Bool.eq_false_iff.mpr hpanel, ?_, ?_, ?_⟩
  · simpa using hvalues
  · simpa using hown
  · simpa using hinside
  · intro t ht u hu hne
    refine Bool.eq_false_iff.mpr fun hover => hdisjoint ?_
    exact List.any_eq_true.mpr ⟨t, ht, List.any_eq_true.mpr ⟨u, hu, by simp [hne, hover]⟩⟩

theorem validate_ok (records : List ConfigRecord) (covered : List Byte) (crc : BitVec 16) (c : Configuration)
    (h : validate records covered crc = .ok c) : ImageSound records covered crc ∧ c = configurationOf records := by
  unfold validate at h
  split at h
  · cases h
  · rename_i hfault
    exact ⟨imageSound_of_noFault records covered crc hfault, (Except.ok.inj h).symm⟩

/-- A record of a tag is a record of the image. -/
theorem mem_withTag {records : List ConfigRecord} {tag : Byte} {r : ConfigRecord} (h : r ∈ withTag records tag) :
    r ∈ records ∧ r.tag = tag := by
  simpa [withTag] using h

theorem exists_head_of_withTag {records : List ConfigRecord} {tag : Byte} (h : (withTag records tag).isEmpty = false) :
    ∃ r, (withTag records tag).head? = some r ∧ r ∈ records ∧ r.tag = tag := by
  cases hw : withTag records tag with
  | nil => simp [hw] at h
  | cons r rest => exact ⟨r, rfl, mem_withTag (by rw [hw]; exact List.mem_cons_self)⟩

/-- A record of a known tag without a bad value has its fields in their allowed values. -/
theorem fieldsAllowed_of_known (r : ConfigRecord) (n : Nat) (h : r.badValue = false) (hn : payloadLength r.tag = some n) :
    r.fieldsAllowed = true := by
  unfold ConfigRecord.badValue at h
  rw [hn] at h
  simpa using (Bool.or_eq_false_iff.mp h).2

/-- The canvas of a sound image (R1). -/
theorem canvasIn_of_sound {records : List ConfigRecord} {covered : List Byte} {crc : BitVec 16}
    (h : ImageSound records covered crc) :
    1 ≤ (canvasIn records).1 ∧ (canvasIn records).1 ≤ 4096 ∧ 1 ≤ (canvasIn records).2 ∧ (canvasIn records).2 ≤ 4096 := by
  obtain ⟨r, hhead, hr, htag⟩ := exists_head_of_withTag h.canvas
  have hallowed := fieldsAllowed_of_known r 4 (h.values r hr) (by rw [htag]; rfl)
  rw [canvasIn, hhead]
  simpa [ConfigRecord.fieldsAllowed, htag] using hallowed

/-- The sizes of a tile of a sound image (R2). -/
theorem tile_of_sound {records : List ConfigRecord} {covered : List Byte} {crc : BitVec 16}
    (h : ImageSound records covered crc) (t : Tile) (ht : t ∈ tilesOf records) :
    1 ≤ t.width ∧ t.width ≤ 512 ∧ 1 ≤ t.height ∧ t.height ≤ 320 := by
  obtain ⟨r, hr, rfl⟩ := List.mem_map.mp ht
  obtain ⟨hmem, htag⟩ := mem_withTag hr
  have hallowed := fieldsAllowed_of_known r 9 (h.values r hmem) (by rw [htag]; rfl)
  simp only [ConfigRecord.fieldsAllowed, htag] at hallowed
  obtain ⟨-, -, -, hsizes⟩ := of_decide_eq_true hallowed
  exact hsizes

/-- The panel of a sound image (R68, R196). -/
theorem panel_of_sound {records : List ConfigRecord} {covered : List Byte} {crc : BitVec 16}
    (h : ImageSound records covered crc) :
    80 ≤ (configurationOf records).lineTime ∧ (configurationOf records).lineTime ≤ 2000 ∧
      4 ≤ (configurationOf records).blank ∧ (configurationOf records).blank ≤ 255 := by
  obtain ⟨r, hhead, hr, htag⟩ := exists_head_of_withTag h.panel
  have hallowed := fieldsAllowed_of_known r 3 (h.values r hr) (by rw [htag]; rfl)
  simp only [ConfigRecord.fieldsAllowed, htag] at hallowed
  obtain ⟨hlow, hhigh, hblank⟩ := of_decide_eq_true hallowed
  have hline : (configurationOf records).lineTime = field r.payload 0 2 := by
    simp only [configurationOf, hhead, Option.elim_some]
  have hvertical : (configurationOf records).blank = field r.payload 2 1 := by
    simp only [configurationOf, hhead, Option.elim_some]
  rw [hline, hvertical]
  exact ⟨hlow, hhigh, hblank, field_one_le _ _⟩

/-- The commit settings of a sound image, or their defaults (R196). -/
theorem commit_of_sound {records : List ConfigRecord} {covered : List Byte} {crc : BitVec 16}
    (h : ImageSound records covered crc) :
    2 ≤ (configurationOf records).readyLimit ∧ (configurationOf records).readyLimit ≤ 60 ∧
      1 ≤ (configurationOf records).commitLead ∧ (configurationOf records).commitLead ≤ 4 := by
  cases hhead : (withTag records 0x05#8).head? with
  | none => simp [configurationOf, hhead]
  | some r =>
    obtain ⟨hr, htag⟩ := mem_withTag (List.mem_of_head? hhead)
    have hallowed := fieldsAllowed_of_known r 2 (h.values r hr) (by rw [htag]; rfl)
    simp only [ConfigRecord.fieldsAllowed, htag] at hallowed
    simp only [configurationOf, hhead, Option.elim_some]
    exact of_decide_eq_true hallowed

/-- A sorted tile is a tile of its station. -/
theorem mem_sortTiles {tiles : List Tile} {t : Tile} (h : t ∈ sortTiles tiles) : t ∈ tiles := by
  obtain ⟨x, -, hx⟩ := List.mem_filterMap.mp h
  exact List.mem_of_find?_eq_some hx

/-- Sorted tiles stand in ascending order of station. -/
theorem sortTiles_pairwise (tiles : List Tile) : (sortTiles tiles).Pairwise (fun t u => t.station < u.station) := by
  unfold sortTiles
  rw [List.pairwise_filterMap]
  refine (List.pairwise_lt_finRange 16).imp fun {x y} hxy t ht u hu => ?_
  have hx : t.station = x := by simpa using List.find?_some ht
  have hy : u.station = y := by simpa using List.find?_some hu
  rw [hx, hy]
  exact hxy

/-- A station with a tile has one among the sorted. -/
theorem sortTiles_find? (tiles : List Tile) (x : Station) (h : ∃ t ∈ tiles, t.station = x) :
    ((sortTiles tiles).find? (fun t => t.station = x)).isSome = true := by
  obtain ⟨t, ht, htx⟩ := h
  have hsome : (tiles.find? (fun t => t.station = x)).isSome = true := List.find?_isSome.mpr ⟨t, ht, by simpa using htx⟩
  obtain ⟨u, hu⟩ := Option.isSome_iff_exists.mp hsome
  refine List.find?_isSome.mpr ⟨u, List.mem_filterMap.mpr ⟨x, List.mem_finRange x, hu⟩, ?_⟩
  simpa using List.find?_some hu

/-- Settles O17: test by test of R200. -/
theorem validatedMapIsDisjointAndInside : Obligations.ValidatedMapIsDisjointAndInside := by
  intro records covered crc c hvalid
  obtain ⟨h, rfl⟩ := validate_ok records covered crc c hvalid
  obtain ⟨hline, hline', hblank, hblank'⟩ := panel_of_sound h
  refine ⟨h.crc, canvasIn_of_sound h, fun t ht => ?tiles, ?disjoint, ?own, ?digest, hline, hline', hblank,
    hblank', commit_of_sound h⟩
  case tiles =>
    have hmem : t ∈ tilesOf records := mem_sortTiles ht
    obtain ⟨hw, hw', hh, hh'⟩ := tile_of_sound h t hmem
    have hinside := h.inside t hmem
    rw [Tile.inCanvas, decide_eq_true_eq] at hinside
    exact ⟨hw, hw', hh, hh', hinside⟩
  case own => exact sortTiles_find? (tilesOf records) (stationIn records) h.ownTile
  case digest => simp only [configurationOf]
  case disjoint =>
    refine (sortTiles_pairwise (tilesOf records)).imp_of_mem fun {t u} ht hu hlt => ⟨hlt, ?_⟩
    exact h.disjoint t (mem_sortTiles ht) u (mem_sortTiles hu) (Fin.ne_of_lt hlt)

end Sys2Proof.Machine

/-! PROOFS. The Wall Link (chapters 2 and 8): frames on the wire, and the bodies read back as they were built (11_formats.md). -/

namespace Sys2Proof.Machine

/-! ## Frames on the wire (R17, R22) -/

/-- The periods of a frame up to its final mark. -/
theorem marked_length (f : WireFrame) : (driven :: withMarks f.bits).length = 48 + 9 * f.body.length := by
  rw [List.length_cons, withMarks_length, WireFrame.bits_length]
  omega

/-- A frame on the wire: its marked bits, then final mark, turnaround, TAKE slot, SPOIL slot and end mark. -/
theorem line_eq (f : WireFrame) (take spoil : Bool) :
    f.line take spoil = (driven :: withMarks f.bits) ++ [driven, released, !take, !spoil, driven] := by
  rw [WireFrame.line, WireFrame.sent, List.append_assoc]
  cases take <;> cases spoil <;> rfl

theorem line_length (f : WireFrame) (take spoil : Bool) : (f.line take spoil).length = 53 + 9 * f.body.length := by
  rw [line_eq, List.length_append, marked_length]
  simp only [List.length_cons, List.length_nil]
  omega

/-- Every ninth period from class to CRC is a mark. -/
theorem line_mark (f : WireFrame) (take spoil : Bool) (i : Nat) (h : i < f.body.length + 5) :
    (f.line take spoil)[9 * i + 9]? = some driven := by
  have hmark := withMarks_mark f.bits i (by rw [WireFrame.bits_length]; omega)
  have hlt : 9 * i + 9 < (driven :: withMarks f.bits).length := by
    rw [marked_length]
    omega
  rw [line_eq, List.getElem?_append_left hlt]
  exact hmark

/-! ## Numbers in bodies -/

/-- The first field of a body is its front part, when the lengths agree. -/
theorem field_append_left (x rest : List Byte) (n : Nat) (h : x.length = n) : field (x ++ rest) 0 n = bytesToNat x := by
  rw [field, List.drop_zero, ← h, List.take_left]

theorem field_append_right (x rest : List Byte) (i n k : Nat) (h : x.length = k) :
    field (x ++ rest) (k + i) n = field rest i n := by
  rw [field, field, ← h, List.drop_append, List.drop_of_length_le (Nat.le_add_right _ _), Nat.add_sub_cancel_left,
    List.nil_append]

/-- A field of the front part of a body. -/
theorem field_append_of_le (x rest : List Byte) (i n : Nat) (h : i + n ≤ x.length) : field (x ++ rest) i n = field x i n := by
  rw [field, field, List.drop_append_of_le_length (by omega), List.take_append_of_le_length (by rw [List.length_drop]; omega)]

/-- A field that is all of the bytes. -/
theorem field_whole (x : List Byte) (n : Nat) (h : x.length = n) : field x 0 n = bytesToNat x := by
  rw [field, List.drop_zero, ← h, List.take_length]

theorem bytesToNat_byte {v : Nat} (h : v < 256) : bytesToNat (natToBytes 1 v) = v := bytesToNat_natToBytes_of_lt h

theorem bytesToNat_word {v : Nat} (h : v < 65536) : bytesToNat (natToBytes 2 v) = v := bytesToNat_natToBytes_of_lt h

theorem bytesToNat_triple {v : Nat} (h : v < 16777216) : bytesToNat (natToBytes 3 v) = v := bytesToNat_natToBytes_of_lt h

/-! ## Control bodies (R99, R208) -/

theorem completing_length (c : Completing) : c.bytes.length = 5 := by simp [Completing.bytes]

/-- Stamp and commit lead are read back, whatever follows them. -/
theorem completingOf_bytes (c : Completing) (rest : List Byte) (h : c.lead ≤ 4) : completingOf (c.bytes ++ rest) = c := by
  have hstamp : ((c.bytes ++ rest).take 4) = natToBytes 4 c.stamp.toNat := by
    simp [Completing.bytes]
  have hlead : ((c.bytes ++ rest).drop 4).take 1 = natToBytes 1 c.lead := by
    simp [Completing.bytes]
  rw [completingOf, hstamp, hlead, bytesToNat_four, bytesToNat_byte (by omega)]
  simp

theorem completing_valid (c : Completing) (h : 1 ≤ c.lead) (h' : c.lead ≤ 4) : c.valid = true := decide_eq_true ⟨h, h'⟩

/-- What follows stamp and commit lead. -/
theorem field_completing (c : Completing) (rest : List Byte) (i n : Nat) : field (c.bytes ++ rest) (5 + i) n = field rest i n :=
  field_append_right _ _ _ _ _ (completing_length c)

/-- The digest of a JOIN, read back. -/
theorem field_digest (b : JoinBody) : field b.bytes 5 2 = b.digest.toNat := by
  have hfield : field b.bytes 5 2 = _ := field_completing b.completing (natToBytes 2 b.digest.toNat) 0 2
  rw [hfield, field_whole _ _ (natToBytes_length _ _), bytesToNat_two]

theorem joinBytes_length (b : JoinBody) : b.bytes.length = 7 := by simp [JoinBody.bytes, completing_length]

theorem readJoin_bytes (b : JoinBody) (h : 1 ≤ b.completing.lead) (h' : b.completing.lead ≤ 4) : readJoin b.bytes = some b := by
  have hcompleting : completingOf b.bytes = b.completing := completingOf_bytes _ _ h'
  rw [readJoin, hcompleting, field_digest, if_pos ⟨joinBytes_length b, completing_valid _ h h'⟩]
  simp

theorem readLeave_bytes (b : LeaveBody) (h : 1 ≤ b.completing.lead) (h' : b.completing.lead ≤ 4) :
    readLeave b.bytes = some b := by
  have hcompleting : completingOf b.bytes = b.completing := by
    have hread := completingOf_bytes b.completing [] h'
    rwa [List.append_nil] at hread
  rw [readLeave, hcompleting, if_pos ⟨completing_length _, completing_valid _ h h'⟩]

theorem readReady_bytes (b : ReadyBody) (h : 1 ≤ b.completing.lead) (h' : b.completing.lead ≤ 4) :
    readReady b.bytes = some b := by
  have hcompleting : completingOf b.bytes = b.completing := completingOf_bytes _ _ h'
  have hepoch : field b.bytes 5 2 = b.epoch.toNat := by
    have hfield : field b.bytes 5 2 = _ := field_completing b.completing (natToBytes 2 b.epoch.toNat) 0 2
    rw [hfield, field_whole _ _ (natToBytes_length _ _), bytesToNat_two]
  have hlength : b.bytes.length = 7 := by simp [ReadyBody.bytes, completing_length]
  rw [readReady, hcompleting, hepoch, if_pos ⟨hlength, completing_valid _ h h'⟩]
  simp

theorem readDrop_bytes (b : DropBody) (h : 1 ≤ b.completing.lead) (h' : b.completing.lead ≤ 4) (hs : b.stations ≠ 0#16) :
    readDrop b.bytes = some b := by
  have hsplit : b.bytes = b.completing.bytes ++ (natToBytes 2 b.epoch.toNat ++ natToBytes 2 b.stations.toNat) := by
    rw [DropBody.bytes, List.append_assoc]
  have hcompleting : completingOf b.bytes = b.completing := by
    rw [hsplit]
    exact completingOf_bytes _ _ h'
  have hepoch : field b.bytes 5 2 = b.epoch.toNat := by
    have hfield := field_completing b.completing (natToBytes 2 b.epoch.toNat ++ natToBytes 2 b.stations.toNat) 0 2
    rw [hsplit, hfield, field_append_left _ _ _ (natToBytes_length _ _), bytesToNat_two]
  have hstations : field b.bytes 7 2 = b.stations.toNat := by
    have hfield := field_completing b.completing (natToBytes 2 b.epoch.toNat ++ natToBytes 2 b.stations.toNat) 2 2
    have hsecond := field_append_right (natToBytes 2 b.epoch.toNat) (natToBytes 2 b.stations.toNat) 0 2 2 (natToBytes_length _ _)
    rw [hsplit, hfield, hsecond, field_whole _ _ (natToBytes_length _ _), bytesToNat_two]
  have hlength : b.bytes.length = 9 := by
    rw [hsplit]
    simp [completing_length]
  have hsome : field b.bytes 7 2 ≠ 0 := by
    rw [hstations]
    exact fun hzero => hs (BitVec.eq_of_toNat_eq hzero)
  rw [readDrop, hcompleting, if_pos ⟨hlength, completing_valid _ h h', hsome⟩, hepoch, hstations]
  simp

/-! ## The beacon body (R73, R109, R208) -/

/-- The fields of a beacon, each from its own place. -/
theorem beacon_fields (b : BeaconBody) :
    b.bytes.length = 24 ∧ field b.bytes 0 4 = bytesToNat (natToBytes 4 b.count.toNat) ∧
    field b.bytes 4 3 = bytesToNat (natToBytes 3 b.launchDelay) ∧
    field b.bytes 7 2 = bytesToNat (natToBytes 2 b.digest.toNat) ∧
    field b.bytes 9 2 = bytesToNat (natToBytes 2 b.members.toNat) ∧
    field b.bytes 11 2 = bytesToNat (natToBytes 2 b.collecting.toNat) ∧
    field b.bytes 13 2 = bytesToNat (natToBytes 2 b.required.toNat) ∧
    field b.bytes 15 2 = bytesToNat (natToBytes 2 b.ready.toNat) ∧
    field b.bytes 17 1 = bytesToNat (natToBytes 1 (if b.last.isSome then 1 else 0)) ∧
    field b.bytes 18 2 = bytesToNat (natToBytes 2 (b.last.elim 0 (fun l => l.1.toNat))) ∧
    field b.bytes 20 4 = bytesToNat (natToBytes 4 (b.last.elim 0 (fun l => l.2.toNat))) ∧
    field b.bytes 18 6 =
      bytesToNat (natToBytes 2 (b.last.elim 0 (fun l => l.1.toNat)) ++ natToBytes 4 (b.last.elim 0 (fun l => l.2.toNat))) := by
  refine ⟨by simp [BeaconBody.bytes], ?_, ?_, ?_, ?_, ?_, ?_, ?_, ?_, ?_, ?_, ?_⟩ <;>
    simp [BeaconBody.bytes, field, List.drop_append, List.drop_of_length_le, List.take_of_length_le]

theorem readBeacon_bytes (x : Station) (b : BeaconBody) (hdelay : b.launchDelay ≤ 1165999)
    (hsender : hasStation b.members x = true) (hrequired : subsetOf b.required b.members = true)
    (hready : subsetOf b.ready b.required = true) : readBeacon x b.bytes = some b := by
  obtain ⟨hlength, h0, h4, h7, h9, h11, h13, h15, h17, h18, h20, h186⟩ := beacon_fields b
  rw [bytesToNat_two] at h7 h9 h11 h13 h15
  rw [bytesToNat_four] at h0
  rw [bytesToNat_triple (by omega)] at h4
  rw [bytesToNat_byte (by split <;> omega)] at h17
  have hmax : Config.launchDelayMax = 1165999 := rfl
  simp only [readBeacon, hlength, h0, h4, h7, h9, h11, h13, h15, h17, h18, h20, h186, BitVec.ofNat_toNat, BitVec.setWidth_eq,
    hmax, hdelay, hsender, hrequired, hready, if_true, true_and]
  cases hlast : b.last with
  | none =>
    rw [if_pos (by simp; rfl)]
    simp [← hlast]
  | some l =>
    rw [if_pos (by simp)]
    simp only [Option.isSome_some, if_true, Option.elim_some, bytesToNat_two, bytesToNat_four, BitVec.ofNat_toNat, BitVec.setWidth_eq]
    rw [← hlast]

/-! ## SPAN and FILL bodies (R11, R26, R208) -/

theorem pixelsOfBytes_flatMap (pixels : List Pixel) : pixelsOfBytes (pixels.flatMap pixelBytes) = pixels := by
  induction pixels with
  | nil => rfl
  | cons p pixels ih =>
    have hp : pixelsOfBytes (pixelBytes p ++ pixels.flatMap pixelBytes) =
        pixelOfBytes (pixelBytes p) :: pixelsOfBytes (pixels.flatMap pixelBytes) := rfl
    rw [List.flatMap_cons, hp, pixel_bytes_back, ih]

/-- A paint in the tile of another station is in bounds. -/
theorem paintInBounds_of_tile (map : TileMap) (x y : Station) (t : Tile) (b : PaintBody) (hb : b.addressee = y.val) (hy : y ≠ x)
    (ht : map.tileFor y = some t) (hp : t.holdsPaint b.paint = true) : paintInBounds (some map) x b = true := by
  have hlt : b.addressee < 16 := hb ▸ y.isLt
  have hstation : (⟨b.addressee, hlt⟩ : Station) = y := Fin.ext hb
  have hne : (b.addressee != x.val) = true := by
    rw [hb]
    simpa using fun h => hy (Fin.ext h)
  rw [paintInBounds, dif_pos hlt, hne]
  simp only [Option.bind_some, hstation, ht, hp, Bool.and_self]

/-- The fields of a SPAN body. -/
theorem span_fields (a : Nat) (e : Epoch) (row start : Nat) (pixels : List Pixel) (bs : List Byte)
    (hbs : bs = PaintBody.bytes { addressee := a, epoch := e, paint := .span row start pixels }) :
    bs.length = 8 + 3 * pixels.length ∧ field bs 0 1 = bytesToNat (natToBytes 1 a) ∧
    field bs 1 2 = bytesToNat (natToBytes 2 e.toNat) ∧ field bs 3 2 = bytesToNat (natToBytes 2 row) ∧
    field bs 5 2 = bytesToNat (natToBytes 2 start) ∧ field bs 7 1 = bytesToNat (natToBytes 1 pixels.length) ∧
    bs.drop 8 = pixels.flatMap pixelBytes := by
  subst hbs
  refine ⟨?_, ?_, ?_, ?_, ?_, ?_, ?_⟩
  · simp only [PaintBody.bytes, List.length_append, natToBytes_length, flatMap_pixelBytes_length]
    omega
  all_goals
    simp [PaintBody.bytes, field, List.drop_append, List.drop_of_length_le]

theorem readSpan_bytes (map : TileMap) (x y : Station) (t : Tile) (e : Epoch) (hy : y ≠ x) (ht : map.tileFor y = some t)
    (row start : Nat) (pixels : List Pixel) (hone : 1 ≤ pixels.length) (hmany : pixels.length ≤ 64) (hrow : row < t.height)
    (hstart : start + pixels.length ≤ t.width) (hheight : t.height ≤ 320) (hwidth : t.width ≤ 512) :
    readSpan (some map) x (PaintBody.bytes { addressee := y.val, epoch := e, paint := .span row start pixels }) =
      some { addressee := y.val, epoch := e, paint := .span row start pixels } := by
  obtain ⟨bs, hbs⟩ : ∃ bs, bs = PaintBody.bytes { addressee := y.val, epoch := e, paint := .span row start pixels } := ⟨_, rfl⟩
  obtain ⟨hlength, h0, h1, h3, h5, h7, h8⟩ := span_fields y.val e row start pixels bs hbs
  rw [bytesToNat_byte (by omega)] at h0 h7
  rw [bytesToNat_word (by omega)] at h3 h5
  rw [bytesToNat_two] at h1
  have hbounds := paintInBounds_of_tile map x y t { addressee := y.val, epoch := e, paint := .span row start pixels } rfl hy ht
    (decide_eq_true ⟨hrow, hstart⟩)
  rw [← hbs]
  simp only [readSpan, h0, h1, h3, h5, h7, h8, BitVec.ofNat_toNat, BitVec.setWidth_eq, pixelsOfBytes_flatMap, hbounds, if_true]
  rw [if_pos ⟨by omega, hlength, hone, hmany⟩]

/-- The fields of a FILL body. -/
theorem fill_fields (a : Nat) (e : Epoch) (r : Rect) (colour : Pixel) (bs : List Byte)
    (hbs : bs = PaintBody.bytes { addressee := a, epoch := e, paint := .fill r colour }) :
    bs.length = 14 ∧ field bs 0 1 = bytesToNat (natToBytes 1 a) ∧
    field bs 1 2 = bytesToNat (natToBytes 2 e.toNat) ∧ field bs 3 2 = bytesToNat (natToBytes 2 r.x0) ∧
    field bs 5 2 = bytesToNat (natToBytes 2 r.y0) ∧ field bs 7 2 = bytesToNat (natToBytes 2 r.x1) ∧
    field bs 9 2 = bytesToNat (natToBytes 2 r.y1) ∧ bs.drop 11 = pixelBytes colour := by
  subst hbs
  refine ⟨by simp [PaintBody.bytes], ?_, ?_, ?_, ?_, ?_, ?_, ?_⟩
  all_goals
    simp [PaintBody.bytes, field, List.drop_append, List.drop_of_length_le]

theorem readFill_bytes (map : TileMap) (x y : Station) (t : Tile) (e : Epoch) (hy : y ≠ x) (ht : map.tileFor y = some t)
    (r : Rect) (colour : Pixel) (hx0 : r.x0 ≤ r.x1) (hx1 : r.x1 < t.width) (hy0 : r.y0 ≤ r.y1) (hy1 : r.y1 < t.height)
    (hheight : t.height ≤ 320) (hwidth : t.width ≤ 512) :
    readFill (some map) x (PaintBody.bytes { addressee := y.val, epoch := e, paint := .fill r colour }) =
      some { addressee := y.val, epoch := e, paint := .fill r colour } := by
  obtain ⟨bs, hbs⟩ : ∃ bs, bs = PaintBody.bytes { addressee := y.val, epoch := e, paint := .fill r colour } := ⟨_, rfl⟩
  obtain ⟨hlength, h0, h1, h3, h5, h7, h9, h11⟩ := fill_fields y.val e r colour bs hbs
  rw [bytesToNat_byte (by omega)] at h0
  rw [bytesToNat_word (by omega)] at h3 h5 h7 h9
  rw [bytesToNat_two] at h1
  have hbounds := paintInBounds_of_tile map x y t { addressee := y.val, epoch := e, paint := .fill r colour } rfl hy ht
    (decide_eq_true ⟨hx0, hx1, hy0, hy1⟩)
  rw [← hbs]
  simp only [readFill, hlength, h0, h1, h3, h5, h7, h9, h11, BitVec.ofNat_toNat, BitVec.setWidth_eq, pixel_bytes_back, hbounds,
    if_true]

/-- Settles O60: the frame period by period, the bodies field by field. -/
theorem linkBodiesReadBackAsBuilt : Obligations.LinkBodiesReadBackAsBuilt := by
  refine ⟨fun f take spoil wire hwire => ?wire, readBeacon_bytes, readJoin_bytes, readLeave_bytes, readReady_bytes, readDrop_bytes,
    fun map x y t e hy ht => ⟨readSpan_bytes map x y t e hy ht, readFill_bytes map x y t e hy ht⟩⟩
  case wire =>
    subst hwire
    refine ⟨line_length f take spoil, ?_, rfl, line_mark f take spoil, ?_, ?_, unmarked_withMarks f.bits, fun i hi => ?_⟩
    · rw [List.length_append, line_length, endGap, List.length_replicate]
      omega
    · rw [line_eq, ← marked_length]
      exact List.drop_left
    · have hline : f.line take spoil = f.sent ++ [released, if take then driven else released,
          if spoil then driven else released, driven] := rfl
      rw [hline, ← WireFrame.sent_length]
      exact List.take_left.symm
    · refine unmarked_released f.bits i ?_
      rw [WireFrame.bits_length]
      omega

end Sys2Proof.Machine

/-! PROOFS. The Wall Link (chapters 2 and 8): the adopted record, the idle, the start field, the holdoffs, and frames that are
applied nowhere. -/

namespace Sys2Proof.Machine

/-! ## The record after an adoption (R110 to R112) -/

theorem adoptedRecord_of_other (b : BeaconBody) (held : Option Record) (h : ∀ r, held = some r → r.collecting ≠ b.collecting) :
    (adoptedRecord held b).last = b.last.map (carriedCommit false) := by
  cases held with
  | none => rfl
  | some r => exact if_neg (h r rfl)

theorem adoptedRecord_of_same (b : BeaconBody) (r : Record) (h : r.collecting = b.collecting) :
    (adoptedRecord (some r) b).last = sameEpochCommit r.last b.last := if_pos h

theorem sameEpochCommit_of_none (held : Option LastCommit) : sameEpochCommit held none = held := by
  cases held <;> rfl

theorem sameEpochCommit_of_same (h : LastCommit) (l : Epoch × FrameCount) (he : h.epoch = l.1) :
    sameEpochCommit (some h) (some l) = some { h with flipFrame := l.2 } := if_pos he

theorem sameEpochCommit_of_other (held : Option LastCommit) (l : Epoch × FrameCount) (he : ∀ h, held = some h → h.epoch ≠ l.1) :
    sameEpochCommit held (some l) = some (carriedCommit true l) := by
  cases held with
  | none => rfl
  | some h => exact if_neg (he h rfl)

/-- Settles O53: by the record held, the last commits and the phase. -/
theorem adoptedRecordAndPhase : Obligations.AdoptedRecordAndPhase := by
  refine ⟨fun b held => ⟨fun hother => ?other, fun r hheld hsame => ?same⟩, fun r self kept was => ?phase⟩
  case other => exact congrArg (Record.mk b.collecting b.required b.ready) (adoptedRecord_of_other b held hother)
  case same =>
    subst hheld
    have hlast := adoptedRecord_of_same b r hsame
    refine ⟨_, congrArg (Record.mk b.collecting b.required b.ready) hlast |>.trans (by rw [hsame]), fun hb => ?_,
      fun l h hb hh he => ?_, fun l hb he => ?_⟩
    · rw [hb, sameEpochCommit_of_none]
    · rw [hb, hh, sameEpochCommit_of_same h l he]
    · rw [hb, sameEpochCommit_of_other _ l he]
      rfl
  case phase =>
    unfold adoptedPhase
    by_cases hflip : r.pendingFlip.isSome <;> by_cases hreq : hasStation r.required self <;> simp [hflip, hreq]

/-! ## Teardown (R61, R84, R115, R136, R154) -/

/-- What a station is after a teardown, before its records enter the queue. -/
def State.tornDown (s : State) (state : StationState) (cause : Cause) : State :=
  { s with
    mu := { s.mu with state := state, cause := cause, synced := false, founder := false, members := 0#16, foreign := 0#16 },
    lc := s.lc.emptied,
    tu := { s.tu with lock := .free, source := none, silent := 0, held := none },
    cu := Commit.reset,
    fs := { s.fs with inbound := [], carry := [], operation := none, bankA := s.abandonOperation.fs.bankA,
                      bankB := s.abandonOperation.fs.bankB },
    we := s.we.emptied, lp := s.lp.endStream, handed := Handed.clear, free := s.abandonOperation.free }

/-- An abandoned operation leaves only the banks changed in the Frame Store. -/
theorem abandonOperation_fs (s : State) :
    s.abandonOperation.fs =
      { s.fs with operation := none, bankA := s.abandonOperation.fs.bankA, bankB := s.abandonOperation.fs.bankB } := by
  obtain ⟨now, config, mu, lc, tu, cu, ⟨bankA, bankB, front, dirty, carry, inbound, showState, clear, operation, lastServed⟩, we,
    lp, sl, handed, free, pending⟩ := s
  cases operation with
  | none => rfl
  | some o =>
    obtain ⟨requester, epoch, row, start, pixels, bank, onDemand⟩ := o
    cases bank <;> rfl

@[simp] theorem port_endStream_fields (p : Port) :
    p.endStream.events = p.events ∧ p.endStream.counters = p.counters ∧ p.endStream.lastResult = p.lastResult ∧
      p.endStream.raised = p.raised ∧ p.endStream.raisedAfter = p.raisedAfter := by
  unfold Port.endStream
  split <;> exact ⟨rfl, rfl, rfl, rfl, rfl⟩

theorem endStream_raised (p : Port) (l : List EventRecord) :
    Port.endStream { p with raised := l } = { p.endStream with raised := l } := by
  obtain ⟨lastResult, transaction, miso, events, raised, raisedAfter, counters, prs⟩ := p
  cases transaction <;> rfl

/-- LOCK, where the lock state changes (R78). -/
theorem setLock_eq (s : State) (l : LockState) :
    s.setLock l = { s with
      tu := { s.tu with lock := l },
      lp := { s.lp with raised := s.lp.raised ++ if s.tu.lock = l then [] else [EventRecord.lock l] } } := by
  rw [State.setLock]
  by_cases h : s.tu.lock = l
  · subst h
    simp only [if_true, List.append_nil]
  · simp only [h, if_false]
    rfl

theorem teardown_eq (s : State) (state : StationState) (cause : Cause) :
    s.teardown state cause =
      (s.tornDown state cause).setLp { s.lp.endStream with
        raised := s.lp.raised ++ if s.tu.lock = .free then [] else [EventRecord.lock .free] } := by
  have hlp := endStream_raised s.lp (s.lp.raised ++ if s.tu.lock = .free then [] else [EventRecord.lock .free])
  have hfs := abandonOperation_fs s
  obtain ⟨f, hf⟩ : ∃ f, f = s.abandonOperation.fs := ⟨_, rfl⟩
  obtain ⟨n, hn⟩ : ∃ n, n = s.abandonOperation.free := ⟨_, rfl⟩
  have habandon := abandonOperation_eq s
  rw [← hf, ← hn] at habandon
  rw [← hf] at hfs
  rw [State.tornDown, ← hf, ← hn, ← hlp, State.teardown, habandon, setLock_eq]
  conv_lhs => rw [hfs]
  rfl

/-- The records that a teardown raises with the record of its cause. -/
def State.tearRecords (s : State) (e : EventRecord) : List EventRecord :=
  (if s.tu.lock = .free then [] else [EventRecord.lock .free]) ++ [e]

/-- A station that is no MEMBER has no second founding due. -/
theorem refoundDue_of_other (s : State) (h : s.mu.state ≠ .member) : s.refoundDue = false := by
  simp [State.refoundDue, h]

theorem State.Unraised.tornDown {s : State} (h : s.Unraised) (state : StationState) (cause : Cause) (hstate : state ≠ .member) :
    (s.tornDown state cause).Unraised := by
  obtain ⟨hraised, hafter, _⟩ := h
  obtain ⟨_, _, _, h1, h2⟩ := port_endStream_fields s.lp
  exact ⟨h1.trans hraised, h2.trans hafter, refoundDue_of_other _ hstate⟩

/-- An event that ends in a teardown with the record of its cause. -/
theorem closeEvent_teardown (u : State) (state : StationState) (cause : Cause) (e : EventRecord) (hu : u.Unraised)
    (hstate : state ≠ .member) :
    (u.tornDown state cause).Reported (closeEvent ((u.teardown state cause).raise e)) u.lp.counters (u.tearRecords e) [] := by
  obtain ⟨_, hcounters, _, _, hafter⟩ := port_endStream_fields u.lp
  have hnone : u.lp.endStream.raisedAfter = [] := hafter.trans hu.2.1
  have hraised : (u.teardown state cause).raise e = (u.tornDown state cause).setLp
      { u.lp.endStream with counters := u.lp.counters, raised := u.tearRecords e, raisedAfter := [] } := by
    rw [teardown_eq, State.raise, State.tearRecords, ← hcounters, ← hnone, hu.1, List.nil_append]
    rfl
  rw [hraised]
  exact closeEvent_reported _ _ _ _ (hu.tornDown state cause hstate)

/-- A command whose own part is a teardown with the record of its cause. -/
theorem exec_of_teardown {c : Instr} {dt : Nat} {s u : State} {state : StationState} {cause : Cause} {e : EventRecord}
    (hc : timeOf c = some dt) (hq : Quiet s) (hb : effectOf c (s.advance dt) = (u.teardown state cause).raise e)
    (hu : u.Unraised) (hstate : state ≠ .member) :
    ∃ t, exec c s = .next t ∧ (u.tornDown state cause).Reported t u.lp.counters (u.tearRecords e) [] := by
  refine ⟨_, ?_, closeEvent_teardown u state cause e hu hstate⟩
  rw [exec_eq, hc, ← hb]
  exact event_of_quiet dt _ s hq

/-- What a frame of others or the end of the own one leaves after a teardown: the statements' own view of it. -/
theorem tornDown_of_reported {u t : State} {state : StationState} {cause : Cause} {k : Counters} {l : List EventRecord}
    (h : (u.tornDown state cause).Reported t k l []) :
    t.mu = { u.mu with state := state, cause := cause, synced := false, founder := false, members := 0#16, foreign := 0#16 } ∧
      t.lc = u.lc.emptied ∧ t.cu = Commit.reset ∧ t.fs.inbound = [] ∧ t.config = u.config := by
  obtain ⟨ht, _⟩ := h
  rw [ht]
  exact ⟨rfl, rfl, rfl, rfl, rfl⟩

/-- CONFLICT, with its cause (R64). -/
theorem closeEvent_enterConflict (u : State) (id : Bool) (hu : u.Unraised) :
    (closeEvent (u.enterConflict id)).mu.state = .conflict ∧
      (closeEvent (u.enterConflict id)).mu.cause = (if id then .id else .map) ∧
      (closeEvent (u.enterConflict id)).lc = u.lc.emptied := by
  obtain ⟨hmu, hlc, _⟩ := tornDown_of_reported (closeEvent_teardown u .conflict (if id then .id else .map) (.conflict id) hu (by decide))
  exact ⟨congrArg Membership.state hmu, congrArg Membership.cause hmu, hlc⟩

theorem exec_of_conflict {c : Instr} {dt : Nat} {s u : State} {id : Bool} (hc : timeOf c = some dt) (hq : Quiet s)
    (hb : effectOf c (s.advance dt) = u.enterConflict id) (hu : u.Unraised) :
    ∃ t, exec c s = .next t ∧ t.mu.state = .conflict ∧ t.mu.cause = (if id then .id else .map) ∧ t.lc.slots = Slots.empty ∧
      t.lc.outbound = [] ∧ t.lc.view = u.lc.view := by
  obtain ⟨hstate, hcause, hlc⟩ := closeEvent_enterConflict u id hu
  refine ⟨closeEvent (u.enterConflict id), ?_, hstate, hcause, by rw [hlc]; rfl, by rw [hlc]; rfl, by rw [hlc]; rfl⟩
  rw [exec_eq, hc, ← hb]
  exact event_of_quiet dt _ s hq

/-! ## The idle, and frames out of step (R16, R21, R22) -/

theorem frameCutShortBody_of_inFrame (lostBit : Bool) (s : State) (h : s.lc.view = .inFrame) :
    s.frameCutShortBody lostBit =
      if lostBit && s.lc.flight.isSome then (s.setLc s.lc.afterFrame).enterConflict true else s.setLc s.lc.afterFrame := if_pos h

theorem endFrame_of_outOfStep (k : FrameKind) (e : FrameEnd) (s : State) (h : s.lc.view ≠ .inFrame) : s.endFrame k e = s := if_neg h

/-- Settles O40: by the receiver's view. -/
theorem linkIdleCutFramesAndFramesOutOfStep : Obligations.LinkIdleCutFramesAndFramesOutOfStep := by
  intro dt s hq
  have hu := unraised_of_quiet s hq
  refine ⟨exec_of_effect (c := .linkIdle dt) rfl hq rfl hu, fun hview => ⟨fun lostBit hkept => ?cut, fun a hflight => ?lost⟩,
    fun hview c e lostBit hc => ?outOfStep⟩
  case cut =>
    refine exec_of_effect (c := .frameCutShort ⟨dt, lostBit⟩) rfl hq
      ((frameCutShortBody_of_inFrame lostBit (s.advance dt) hview).trans (if_neg ?_)) hu
    rcases hkept with h | h
    · simp [h]
    · simp [h]
  case lost =>
    have hlost : (true && (s.advance dt).lc.flight.isSome) = true := congrArg Option.isSome hflight
    have hconflict := exec_of_conflict (c := .frameCutShort ⟨dt, true⟩) (u := (s.advance dt).setLc s.lc.afterFrame) rfl hq
      ((frameCutShortBody_of_inFrame true (s.advance dt) hview).trans (if_pos hlost)) hu
    exact hconflict
  case outOfStep =>
    rcases hc with rfl | rfl | rfl | rfl | rfl | rfl | rfl | rfl
    · exact exec_of_idle rfl hq (if_neg hview)
    all_goals exact exec_of_idle rfl hq (endFrame_of_outOfStep _ e (s.advance dt) hview)

end Sys2Proof.Machine

/-! PROOFS. The Wall Link (chapters 2 and 8): what a start field offers, and frames that are only counted. -/

namespace Sys2Proof.Machine

/-! ## The start field (R19, R24, R76, R159) -/

theorem seeStart_eq (s : State) (flight : Option Attempt) (g : Generator) (v : Nat) (hg : s.tu.generator = some g)
    (hv : g.lastVertical = some v) :
    s.seeStart flight = { s with
      lc := { s.lc with view := .inFrame, flight := flight, slotView := none },
      tu := { s.tu with startPhase := some (s.now - v), startsSince := 0 } } := by
  have hsince : s.sinceVertical g = s.now - v := by rw [State.sinceVertical, hv]
  unfold State.seeStart
  simp only [hg, hv, Option.isSome_some, if_true, Option.map_some, hsince]
  rfl

theorem frameStartBody_of_idle (s : State) (h : s.lc.view = .idle) : s.frameStartBody .others = s.seeStart none := if_pos h

theorem frameStartBody_of_other (s : State) (hjoining : s.mu.state ≠ .joining) (hmember : s.mu.state ≠ .member) :
    s.frameStartBody .ours = s := by
  simp [State.frameStartBody, hjoining, hmember]

theorem frameStartBody_of_none (s : State) (h : s.eligibleItem = none) : s.frameStartBody .ours = s := by
  simp [State.frameStartBody, h]

theorem frameStartBody_of_item (s : State) (item : Item) (g : Generator) (v : Nat) (hidle : s.lc.view = .idle)
    (hstate : s.mu.state = .joining ∨ s.mu.state = .member) (hg : s.tu.generator = some g) (hv : g.lastVertical = some v)
    (h : s.eligibleItem = some item) :
    s.frameStartBody .ours = s.seeStart (some (s.attemptOf (s.now - v) item)) := by
  have hsince : s.tu.generator.elim 0 s.sinceVertical = s.now - v := by
    rw [hg, Option.elim_some, State.sinceVertical, hv]
  rw [State.frameStartBody, if_pos hidle]
  simp only [hstate, if_true, h, hsince]

/-- The fields of the frames that a station offers come from its configuration. -/
theorem completing_of_config (s : State) (c : Configuration) (h : s.config = some c) :
    s.completing = { stamp := s.tu.count, lead := c.commitLead } := by
  rw [State.completing, State.commitLead, h]

theorem digest_of_config (s : State) (c : Configuration) (h : s.config = some c) : s.digest = some c.map.digest := by
  rw [State.digest, h, Option.map_some]

theorem beaconBody_of_record (s : State) (delay : Nat) (c : Configuration) (r : Record) (hc : s.config = some c)
    (hr : s.cu.record = some r) :
    s.beaconBody delay =
      { count := s.tu.count, launchDelay := delay, digest := c.map.digest, members := s.mu.members,
        collecting := r.collecting, required := r.required, ready := r.ready,
        last := r.last.map (fun l => (l.epoch, l.flipFrame)) } := by
  rw [State.beaconBody, digest_of_config s c hc, hr]
  rfl

/-- A control slot is offered while it is filled and not in holdoff (R24, R33). -/
theorem slotEligible_iff (s : State) (slot : ControlSlot) :
    s.slotEligible slot = true ↔ ∃ q, s.lc.slots.retry slot = some q ∧ q.inHoldoff s.now = false := by
  rw [State.slotEligible]
  cases s.lc.slots.retry slot <;> simp

/-- What goes before the slots that need no record (R24). -/
theorem eligibleItem_of_noRecordItem (s : State)
    (h : s.cu.record = none ∨ (s.lc.slots.beacon = false ∧ s.slotEligible .drop = false)) :
    s.eligibleItem =
      if s.slotEligible .leave then some .leave else if s.slotEligible .join then some .join
      else if s.slotEligible .ready then some .ready else s.pick.map Item.outbound := by
  unfold State.eligibleItem
  rcases h with h | ⟨hbeacon, hdrop⟩
  · simp [h]
  · simp [hbeacon, hdrop]

/-- Settles O41: by who begins the frame, and by the item. -/
theorem frameStartOffersTheHighestItem : Obligations.FrameStartOffersTheHighestItem := by
  intro dt s u c g v hq hidle hc hg hv hu
  subst hu
  have hself : ({ s with now := s.now + dt } : State).self = c.map.self := self_of_config _ c hc
  have hcompleting : ({ s with now := s.now + dt } : State).completing = { stamp := s.tu.count, lead := c.commitLead } :=
    completing_of_config _ c hc
  have hdigest : ({ s with now := s.now + dt } : State).digest = some c.map.digest := digest_of_config _ c hc
  have hsent : ∀ (item : Item) (frame : WireFrame), (s.mu.state = .joining ∨ s.mu.state = .member) →
      ({ s with now := s.now + dt } : State).eligibleItem = some item →
      ({ s with now := s.now + dt } : State).attemptOf (s.now + dt - v) item = { item := item, frame := frame } →
      exec (.frameStart dt .ours) s =
        .next { s with
          now := s.now + dt
          lc := { s.lc with view := .inFrame, slotView := none, flight := some { item := item, frame := frame } },
          tu := { s.tu with startPhase := some (s.now + dt - v), startsSince := 0 } } := by
    intro item frame hstate hitem hattempt
    have hbody := frameStartBody_of_item { s with now := s.now + dt } item g v hidle hstate hg hv hitem
    have hseen := seeStart_eq { s with now := s.now + dt } (some { item := item, frame := frame }) g v hg hv
    rw [hattempt] at hbody
    exact exec_of_effect (c := .frameStart dt .ours) rfl hq (hbody.trans hseen) (unraised_of_quiet s hq)
  refine ⟨?others, fun hjoining hmember => ?silent, fun r item frame hstate hr hitem hframe => ?record,
    fun item frame hstate hitem hframe => ?noRecord, fun hnone => ?none, fun eligible heligible => ?order⟩
  case others =>
    exact exec_of_effect (c := .frameStart dt .others) rfl hq
      ((frameStartBody_of_idle (s.advance dt) hidle).trans (seeStart_eq _ _ g v hg hv)) (unraised_of_quiet s hq)
  case silent => exact exec_of_idle (c := .frameStart dt .ours) rfl hq (frameStartBody_of_other (s.advance dt) hjoining hmember)
  case none => exact exec_of_idle (c := .frameStart dt .ours) rfl hq (frameStartBody_of_none (s.advance dt) hnone)
  case record =>
    refine hsent item frame hstate hitem (congrArg (Attempt.mk item) ?_)
    have hbeacon := beaconBody_of_record { s with now := s.now + dt } (s.now + dt - v) c r hc hr
    rw [hframe, hself]
    cases item with
    | outbound e => cases h : e.paint <;> simp only [State.itemBody, h]
    | beacon => simp only [State.itemBody, hbeacon]
    | drop => simp only [State.itemBody, hcompleting, hr, Option.elim_some]
    | join => simp only [State.itemBody, hcompleting, hdigest, Option.getD_some]
    | leave | ready => simp only [State.itemBody, hcompleting]
  case noRecord =>
    refine hsent item frame hstate hitem (congrArg (Attempt.mk item) ?_)
    rw [hself]
    rcases hframe with ⟨rfl, rfl⟩ | ⟨rfl, rfl⟩ | ⟨q, hready, rfl, rfl⟩ | ⟨e, row, start, pixels, rfl, hpaint, rfl⟩ |
      ⟨e, rect, colour, rfl, hpaint, rfl⟩
    · simp only [State.itemBody, hcompleting]
    · simp only [State.itemBody, hcompleting, hdigest, Option.getD_some]
    · simp only [State.itemBody, hcompleting, hready, Option.elim_some]
    · simp only [State.itemBody, hpaint]
    · simp only [State.itemBody, hpaint]
  case order =>
    have hslot : ∀ slot, eligible (s.lc.slots.retry slot) ↔ ({ s with now := s.now + dt } : State).slotEligible slot = true :=
      fun slot => (heligible _).trans (slotEligible_iff { s with now := s.now + dt } slot).symm
    simp only [hslot]
    refine ⟨fun hr hbeacon => ?_, fun hr hbeacon hdrop => ?_, fun hfirst => ?_⟩
    · simp [State.eligibleItem, hr, hbeacon]
    · simp [State.eligibleItem, hr, hbeacon, hdrop]
    · have hitem := eligibleItem_of_noRecordItem { s with now := s.now + dt }
        (hfirst.imp_right fun ⟨hbeacon, hdrop⟩ => ⟨hbeacon, Bool.eq_false_iff.mpr hdrop⟩)
      rw [hitem]
      refine ⟨fun hleave => if_pos hleave, fun hleave => ?_⟩
      rw [if_neg hleave]
      refine ⟨fun hjoin => if_pos hjoin, fun hjoin => ?_⟩
      rw [if_neg hjoin]
      exact ⟨fun hready => if_pos hready, fun hready => if_neg hready⟩

/-! ## Frames received (R20, R23, R25, R26, R29) -/

/-- The end of a frame that this station saw begin and sent nothing in. -/
theorem endFrame_received (k : FrameKind) (e : FrameEnd) (s : State) (hview : s.lc.view = .inFrame) (hflight : s.lc.flight = none) :
    s.endFrame k e = (s.setLc s.lc.afterFrame).receive k e (s.lc.slotView.getD s.slotViewNow) := by
  rw [State.endFrame, if_pos hview, hflight]
  rfl

/-- A station that lost the contention has no part of its own in the frame of the winner (R20). -/
theorem endFrame_of_contentionLost (k : FrameKind) (e : FrameEnd) (s : State) (a : Attempt) (n : Nat)
    (hview : s.lc.view = .inFrame) (hflight : s.lc.flight = some a)
    (hlost : firstDifference 0 a.frame.bits e.frame.bits = some (n, true)) (hn : n < 6) :
    s.endFrame k e = (s.setLc { s.lc with flight := none }).endFrame k e := by
  have hrole : roleIn s.lc.flight k e.frame = .receiver := by
    simp only [roleIn, hflight, hlost, if_true, if_pos hn]
  rw [endFrame_received k e (s.setLc { s.lc with flight := none }) hview rfl, State.endFrame, if_pos hview]
  simp only [hrole]
  rfl

theorem hear_of_error (s : State) (k : FrameKind) (e : FrameEnd) (v : SlotView)
    (hunequal : s.unequalJoin k e.frame v.state = false)
    (herror : e.otherSpoil = true ∨ e.frame.lengthFound = false ∨ s.checkedBody k e.frame = none) :
    s.hear k e v = s.countSpoil := by
  unfold State.hear
  split
  · rfl
  · rename_i hlength
    simp only [hunequal, Bool.false_eq_true, if_false]
    have hkeep : s.countSpoil.joiningConflict false = s.countSpoil := by simp [State.joiningConflict]
    cases hbody : s.checkedBody k e.frame with
    | none => exact hkeep
    | some body =>
      have hspoil : e.otherSpoil = true := by simpa [hlength, hbody] using herror
      exact if_pos hspoil

theorem readBody_kind (map : Option TileMap) (k : FrameKind) (x : Station) (bs : List Byte) (hk : k ≠ .beacon) (b : BeaconBody) :
    readBody map k x bs ≠ some (.beacon b) := by
  cases k <;> simp [readBody] at hk ⊢

/-- A station that only observes takes no notice of a frame that is not a beacon (R29). -/
theorem observe_of_other (s : State) (k : FrameKind) (e : FrameEnd) (hk : k ≠ .beacon) : s.observe k e = s := by
  have hbody : ∀ b, s.checkedBody k e.frame ≠ some (.beacon b) := by
    intro b
    unfold State.checkedBody
    split
    · exact readBody_kind _ k _ _ hk b
    · nofun
  unfold State.observe
  split
  · cases h : s.checkedBody k e.frame with
    | none => rfl
    | some body => cases body with
      | beacon b => exact absurd h (hbody b)
      | join | leave | ready | drop | paint => rfl
  · rfl

/-- Without a tile map a station takes no part on the link (R23). -/
theorem silent_of_mapless (x : StationState) (h : x.mapless = true) : x.hears = false ∧ x.observes = false := by
  cases x
  case loading | awaitConfig | fault => exact ⟨rfl, rfl⟩
  all_goals exact absurd h (by decide)

/-- The commands that a frame of a kind ends with. -/
def frameCommand (dt : Nat) (e : FrameEnd) : FrameKind → Instr
  | .beacon => .beacon dt e
  | .join => .joinFrame dt e
  | .leave => .leaveFrame dt e
  | .ready => .readyFrame dt e
  | .drop => .dropFrame dt e
  | .span => .spanFrame dt e
  | .fill => .fillFrame dt e

theorem timeOf_frameCommand (dt : Nat) (e : FrameEnd) (k : FrameKind) : timeOf (frameCommand dt e k) = some dt := by
  cases k <;> rfl

theorem effectOf_frameCommand (dt : Nat) (e : FrameEnd) (k : FrameKind) (s : State) :
    effectOf (frameCommand dt e k) s = s.endFrame k e := by
  cases k <;> rfl

/-- Every frame command is the command of a kind. -/
theorem exists_frameCommand {dt : Nat} {e : FrameEnd} {c : Instr}
    (h : c ∈ [Instr.beacon dt e, .joinFrame dt e, .leaveFrame dt e, .readyFrame dt e, .dropFrame dt e, .spanFrame dt e,
      .fillFrame dt e]) : ∃ k, c = frameCommand dt e k := by
  simp only [List.mem_cons, List.not_mem_nil, or_false] at h
  rcases h with rfl | rfl | rfl | rfl | rfl | rfl | rfl
  · exact ⟨.beacon, rfl⟩
  · exact ⟨.join, rfl⟩
  · exact ⟨.leave, rfl⟩
  · exact ⟨.ready, rfl⟩
  · exact ⟨.drop, rfl⟩
  · exact ⟨.span, rfl⟩
  · exact ⟨.fill, rfl⟩

/-- A frame command between two events, by what the end of its frame does. -/
theorem exec_frameCommand (dt : Nat) (e : FrameEnd) (k : FrameKind) (s : State) (h : Quiet s) :
    exec (frameCommand dt e k) s = .next (closeEvent ((s.advance dt).endFrame k e)) := by
  rw [exec_eq, timeOf_frameCommand]
  exact (event_of_quiet dt _ s h).trans (by rw [effectOf_frameCommand])

/-- Settles O43: by the contention, by the error and by the station state. -/
theorem spoiledAndLostFramesOnlyCount : Obligations.SpoiledAndLostFramesOnlyCount := by
  refine ⟨fun dt n s a e ⟨hq, hview, hflight⟩ hlost hn c hc => ?lost, fun dt s e c k hrec hc => ?received⟩
  case lost =>
    obtain ⟨k, rfl⟩ := exists_frameCommand hc
    have hend := endFrame_of_contentionLost k e (s.advance dt) a n hview hflight hlost hn
    rw [exec_frameCommand dt e k s hq, exec_frameCommand dt e k _ (by exact hq), hend]
    rfl
  case received =>
    obtain ⟨hq, hview, hflight, hslots⟩ := hrec
    have hu := unraised_of_quiet s hq
    obtain rfl : c = frameCommand dt e k := by
      rcases hc with ⟨rfl, rfl⟩ | ⟨rfl, rfl⟩ | ⟨rfl, rfl⟩ | ⟨rfl, rfl⟩ | ⟨rfl, rfl⟩ | ⟨rfl, rfl⟩ | ⟨rfl, rfl⟩ <;> rfl
    have hend : (s.advance dt).endFrame k e = ((s.advance dt).setLc s.lc.afterFrame).receive k e s.slotViewNow := by
      refine (endFrame_received k e (s.advance dt) hview hflight).trans ?_
      have hnone : (s.advance dt).lc.slotView = none := hslots
      rw [hnone]
      rfl
    refine ⟨fun hstate hunequal herror => ?counted, fun hstate => ?ignored⟩
    case counted =>
      have hhears : s.mu.state.hears = true := by rcases hstate with h | h | h <;> rw [h] <;> rfl
      have hhear := hear_of_error ((s.advance dt).setLc s.lc.afterFrame) k e s.slotViewNow hunequal herror
      refine exec_of_effect (timeOf_frameCommand dt e k) hq ((effectOf_frameCommand dt e k _).trans ?_) ?_
      · exact hend.trans ((if_pos hhears).trans hhear)
      · exact hu
    case ignored =>
      have hkept : ((s.advance dt).setLc s.lc.afterFrame).receive k e s.slotViewNow = (s.advance dt).setLc s.lc.afterFrame := by
        rcases hstate with hmapless | ⟨hstate, hk⟩
        · obtain ⟨hhears, hobserves⟩ := silent_of_mapless s.mu.state hmapless
          exact (if_neg (Bool.eq_false_iff.mp hhears)).trans (if_neg (Bool.eq_false_iff.mp hobserves))
        · have hobserve := observe_of_other ((s.advance dt).setLc s.lc.afterFrame) k e hk
          have hhears : ¬s.mu.state.hears = true := by rcases hstate with h | h | h <;> rw [h] <;> decide
          have hobserves : s.mu.state.observes = true := by rcases hstate with h | h | h <;> rw [h] <;> rfl
          exact (if_neg hhears).trans ((if_pos hobserves).trans hobserve)
      exact exec_of_effect (timeOf_frameCommand dt e k) hq ((effectOf_frameCommand dt e k _).trans (hend.trans hkept)) hu

end Sys2Proof.Machine

/-! PROOFS. The Membership Unit (chapters 3 and 5): frames of other stations, read whole, and what is made of each. -/

namespace Sys2Proof.Machine

/-! ## Operations apart from the Local Port -/

/-- An operation that neither reads nor writes the Local Port and the free values. -/
structure Apart (op : State → State) : Prop where
  setLp (s : State) (p : Port) : op (s.setLp p) = (op s).setLp p
  setFree (s : State) (n : Nat) : op (s.setFree n) = (op s).setFree n

theorem Apart.lp {op : State → State} (h : Apart op) (s : State) : (op s).lp = s.lp :=
  (congrArg State.lp (h.setLp s s.lp) : _)

theorem Apart.free {op : State → State} (h : Apart op) (s : State) : (op s).free = s.free :=
  (congrArg State.free (h.setFree s s.free) : _)

theorem Apart.comp {op op' : State → State} (h : Apart op) (h' : Apart op') : Apart (fun s => op (op' s)) where
  setLp s p := by rw [h'.setLp, h.setLp]
  setFree s n := by rw [h'.setFree, h.setFree]

theorem Apart.raise {op : State → State} (h : Apart op) (t : State) (e : EventRecord) : op (t.raise e) = (op t).raise e := by
  rw [State.raise, h.setLp, State.raise, h.lp]

/-- Such an operation may as well be done once the one record of its event is in the queue. -/
theorem Apart.closeEvent_raise {op : State → State} (h : Apart op) (t : State) (e : EventRecord) (ht : (op t).Unraised) :
    closeEvent (op (t.raise e)) = op ((t.setLp (t.lp.enqueue e)).setFree (t.free + 1)) := by
  rw [h.raise, Machine.closeEvent_raise (op t) e ht, h.setFree, h.setLp, h.lp, h.free]

theorem apart_recordLoses (m : StationSet) : Apart (fun s => s.recordLoses m) where
  setLp s p := recordLoses_setLp s m p
  setFree s n := by
    simp only [State.recordLoses, State.setFree_cu]
    split <;> rfl

theorem apart_completionCheck (k : Completing) : Apart (fun s => s.completionCheck k) where
  setLp s p := completionCheck_setLp s k p
  setFree s n := by
    simp only [State.completionCheck, State.setFree_cu]
    split
    · rfl
    · split <;> rfl

theorem apart_dropLoses (m : StationSet) : Apart (fun s => s.dropLoses m) where
  setLp s p := dropLoses_setLp s m p
  setFree s n := by
    simp only [dropLoses_eq]
    rfl

theorem apart_rankRetest : Apart State.rankRetest where
  setLp s p := rankRetest_setLp s p
  setFree s n := by
    have hlost : (s.setFree n).lostSource = s.lostSource := rfl
    simp only [State.rankRetest, hlost]
    split
    · simp only [requestDrop_eq]
      rfl
    · rfl

/-! ## What the shared operations leave unraised -/

theorem State.Unraised.completionCheck {s : State} (h : s.Unraised) (k : Completing) : (s.completionCheck k).Unraised :=
  h.of_view (by simp) (by simp) (by simp)

theorem State.Unraised.recordLoses {s : State} (h : s.Unraised) (m : StationSet) : (s.recordLoses m).Unraised :=
  h.of_view (by simp) (by simp) (by simp)

theorem State.Unraised.dropLoses {s : State} (h : s.Unraised) (m : StationSet) : (s.dropLoses m).Unraised :=
  h.of_view (by simp) (by simp) (by simp)

theorem State.Unraised.rankRetest {s : State} (h : s.Unraised) : s.rankRetest.Unraised :=
  h.of_view (by simp) (by simp) (by simp)

/-- A change of the table at a station that is synced, not alone, or no MEMBER, leaves no founding due (R55). -/
theorem State.Unraised.setMu {s : State} (h : s.Unraised) (m : Membership)
    (hm : m.state ≠ .member ∨ m.synced = true ∨ m.members ≠ oneStation s.self) : (s.setMu m).Unraised := by
  obtain ⟨hr, ha, _⟩ := h
  refine ⟨hr, ha, ?_⟩
  have hself : (s.setMu m).self = s.self := rfl
  rcases hm with hm | hm | hm <;> simp [State.refoundDue, hself, hm]

theorem withStation_ne_oneStation (m : StationSet) (x y : Station) (h : x ≠ y) : withStation m x ≠ oneStation y := by
  intro heq
  have hx := congrArg (fun n => hasStation n x) heq
  simp [h.symm] at hx

theorem withStation_of_mem (m : StationSet) (x : Station) (h : hasStation m x = true) : withStation m x = m := by
  apply BitVec.eq_of_getLsbD_eq
  intro i hi
  have hone := hasStation_withStation m x ⟨i, hi⟩
  by_cases hxi : x = ⟨i, hi⟩
  · subst hxi
    rw [h, Bool.true_or] at hone
    exact hone.trans h.symm
  · rw [decide_eq_false hxi, Bool.or_false] at hone
    exact hone

theorem oneStation_ne_zero (x : Station) : oneStation x ≠ 0#16 := by
  intro heq
  have hx := congrArg (fun n => hasStation n x) heq
  simp at hx

/-- R and Y without some stations, as one update (R95). -/
theorem recordLoses_eq (s : State) (m : StationSet) :
    s.recordLoses m = s.setCu { s.cu with
      record := s.cu.record.map (fun r =>
        { r with required := setMinus r.required m, ready := setMinus r.ready m }) } := by
  obtain ⟨now, config, mu, lc, tu, ⟨record, phase, timer⟩, fs, we, lp, sl, handed, free, pending⟩ := s
  cases record <;> rfl

/-- The completion check by what it looks at (R97, R98). -/
theorem completionCheck_of_ready (s : State) (r : Record) (k : Completing) (hr : s.cu.record = some r)
    (h : subsetOf r.required r.ready = true) : s.completionCheck k = s.commit r k := by
  rw [State.completionCheck, hr]
  exact if_pos h

theorem completionCheck_of_unready (s : State) (r : Record) (k : Completing) (hr : s.cu.record = some r)
    (h : subsetOf r.required r.ready = false) : s.completionCheck k = s := by
  rw [State.completionCheck, hr]
  exact if_neg (Bool.eq_false_iff.mp h)

theorem atCommit_eq (p : Phase) (required : Bool) :
    p.atCommit required = if p = .absent then .absent else if required then .held else .idle := by
  cases p <;> rfl

/-! ## A frame of another station, read whole (R26 to R28) -/

/-- What a hearing station makes of a sound frame of another station: applied when it or another station drove TAKE. -/
theorem endFrame_read (k : FrameKind) (x : Station) (bs : List Byte) (body : Body) (take : Bool) (s : State) (v : SlotView)
    (hview : s.lc.view = .inFrame) (hflight : s.lc.flight = none) (hv : s.lc.slotView.getD s.slotViewNow = v)
    (hhears : s.mu.state.hears = true) (hx : x ≠ s.self) (hlength : bs.length ≤ 200)
    (hbody : readBody s.heldMap k x bs = some body) (hequal : s.unequalJoin k (makeFrame k x bs) v.state = false) :
    s.endFrame k ⟨makeFrame k x bs, take, false⟩ =
      if v.takes s.self x body = true ∨ take = true then (s.setLc s.lc.afterFrame).deliver x (v.takes s.self x body) body
      else s.setLc s.lc.afterFrame := by
  obtain ⟨hkind, hcls, hsender, hread, hfound, hcrc⟩ := makeFrame_sound k x bs hlength
  have hchecked : (s.setLc s.lc.afterFrame).checkedBody k (makeFrame k x bs) = some body := by
    rw [State.checkedBody, hsender, hread]
    exact (if_pos ⟨hcrc, hkind, hcls, hx⟩).trans hbody
  have hequal' : (s.setLc s.lc.afterFrame).unequalJoin k (makeFrame k x bs) v.state = false := hequal
  rw [endFrame_received k _ s hview hflight, hv]
  refine (if_pos hhears).trans ?_
  simp only [State.hear, hfound, reduceCtorEq, Bool.false_eq_true, if_false, hequal', hchecked, hsender]
  rfl

/-- Only JOIN frames carry a digest to compare. -/
theorem unequalJoin_of_other (s : State) (k : FrameKind) (f : WireFrame) (state : StationState) (h : k ≠ .join) :
    s.unequalJoin k f state = false := by
  simp [State.unequalJoin, h]

/-- The digest test of a JOIN as another station built it (R26). -/
theorem unequalJoin_of_join (s : State) (x : Station) (b : JoinBody) (state : StationState) (hx : x ≠ s.self) :
    s.unequalJoin .join (makeFrame .join x b.bytes) state =
      decide ((state = .joining ∨ state = .member) ∧ s.digest ≠ some b.digest) := by
  obtain ⟨hkind, hcls, hsender, hread, _⟩ := makeFrame_sound .join x b.bytes (by rw [joinBytes_length]; omega)
  simp only [State.unequalJoin, hkind, hcls, hsender, hread, field_digest, joinBytes_length, BitVec.ofNat_toNat,
    BitVec.setWidth_eq, decide_true, Bool.and_true, hx, ne_eq, not_false_eq_true, decide_not, Bool.decide_and,
    Bool.decide_or]

/-- A control frame of another station, read correctly, is applied at the end of its event: every hearing station takes it. -/
theorem exec_controlFrame {dt : Nat} {s u : State} {k : FrameKind} {x : Station} {bs : List Byte} {body : Body} (take : Bool)
    (hrec : s.Receiving) (hhears : s.mu.state.hears = true) (hx : x ≠ s.self) (hlength : bs.length ≤ 200)
    (hbody : readBody s.heldMap k x bs = some body) (htakes : s.slotViewNow.takes s.self x body = true)
    (hequal : s.unequalJoin k (makeFrame k x bs) s.mu.state = false)
    (hu : u = { s with now := s.now + dt, lc := s.lc.afterFrame }) :
    exec (frameCommand dt ⟨makeFrame k x bs, take, false⟩ k) s = .next (closeEvent (u.deliver x true body)) := by
  obtain ⟨hq, hview, hflight, hslots⟩ := hrec
  have hnow : (s.advance dt).lc.slotView.getD (s.advance dt).slotViewNow = s.slotViewNow := by
    have hnone : (s.advance dt).lc.slotView = none := hslots
    rw [hnone]
    rfl
  have hend := endFrame_read k x bs body take (s.advance dt) s.slotViewNow hview hflight hnow hhears hx hlength hbody hequal
  have htakes' : s.slotViewNow.takes (s.advance dt).self x body = true := htakes
  rw [htakes', if_pos (Or.inl rfl)] at hend
  rw [exec_frameCommand dt _ k s hq, hend, hu]
  rfl

theorem hears_of_listed {x : StationState} (h : x = .listen ∨ x = .joining ∨ x = .member) : x.hears = true := by
  rcases h with h | h | h <;> rw [h] <;> rfl

/-! ## READY (R93, R97, R98, R100) -/

theorem ownReadyApplied_of_other (s : State) (x : Station) (h : x ≠ s.self) : s.ownReadyApplied x = s :=
  if_neg (fun hself => h hself.1)

theorem applyReady_of_collected (s : State) (x : Station) (b : ReadyBody) (r : Record) (hr : s.cu.record = some r)
    (hepoch : b.epoch = r.collecting) (hrequired : hasStation r.required x = true) (hready : hasStation r.ready x = false) :
    s.applyReady x b =
      (((s.setRecord { r with ready := withStation r.ready x }).dropLoses (oneStation x)).ownReadyApplied x).completionCheck
        b.completing := by
  rw [State.applyReady, hr]
  exact (if_pos ⟨hepoch, hrequired⟩).trans (if_pos hready)

theorem applyReady_of_ignored (s : State) (x : Station) (b : ReadyBody) (r : Record) (hr : s.cu.record = some r)
    (h : ¬(b.epoch = r.collecting ∧ hasStation r.required x = true ∧ (hasStation r.ready x = false ∨
      (x = s.self ∧ s.cu.phase = .closing)))) : s.applyReady x b = s := by
  rw [State.applyReady, hr]
  by_cases hcollects : b.epoch = r.collecting ∧ hasStation r.required x = true
  · obtain ⟨hepoch, hrequired⟩ := hcollects
    have hrest : ¬(hasStation r.ready x = false ∨ (x = s.self ∧ s.cu.phase = .closing)) := fun hor => h ⟨hepoch, hrequired, hor⟩
    exact (if_pos ⟨hepoch, hrequired⟩).trans
      ((if_neg fun hready => hrest (.inl hready)).trans (if_neg fun hself => hrest (.inr hself)))
  · exact if_neg hcollects

/-- Settles O46: the completion check by R and Y, the frame by what it collects. -/
theorem readyCollectsAndCommits : Obligations.ReadyCollectsAndCommits := by
  refine ⟨fun s r k hr => ⟨fun hready => ?commit, fun hready => completionCheck_of_unready s r k hr hready⟩,
    fun dt s u x b take r hrec hx hstate hr hlead hlead' hu => ?frame⟩
  case commit =>
    rw [completionCheck_of_ready s r k hr hready, State.commit, atCommit_eq]
    rfl
  case frame =>
    have hq := unraised_of_quiet s hrec.1
    have hlength : b.bytes.length ≤ 200 := by simp [ReadyBody.bytes, completing_length]
    have hbody : readBody s.heldMap .ready x b.bytes = some (.ready b) := by
      rw [readBody, readReady_bytes b hlead hlead', Option.map_some]
    have htakes : s.slotViewNow.takes s.self x (.ready b) = true := rfl
    have hcontrol := exec_controlFrame take hrec (hears_of_listed hstate) hx hlength hbody htakes
      (unequalJoin_of_other s _ _ _ (by decide)) hu
    have hexec : exec (.readyFrame dt ⟨makeFrame .ready x b.bytes, take, false⟩) s = .next (closeEvent (u.applyReady x b)) :=
      hcontrol
    have hunraised : u.Unraised := hu ▸ hq
    have hself : u.self = s.self := hu ▸ rfl
    have hrecord : u.cu.record = some r := hu ▸ hr
    refine ⟨fun ⟨hepoch, hrequired, hready⟩ => ?collected, fun hignored => ?ignored⟩
    case collected =>
      have happly := applyReady_of_collected u x b r hrecord hepoch hrequired hready
      have hother : ((u.setRecord { r with ready := withStation r.ready x }).dropLoses (oneStation x)).self = u.self := by
        rw [State.self, State.self]
        simp
      rw [ownReadyApplied_of_other _ x (by rw [hother, hself]; exact hx)] at happly
      have hset : (u.setRecord { r with ready := withStation r.ready x }).Unraised := hunraised
      refine hexec.trans (congrArg _ ?_)
      rw [happly, closeEvent_of_unraised _ ((hset.dropLoses _).completionCheck _)]
      rfl
    case ignored =>
      have happly := applyReady_of_ignored u x b r hrecord (fun ⟨hepoch, hrequired, hor⟩ =>
        hignored ⟨hepoch, hrequired, hor.resolve_right (fun hown => hx (hown.1.trans hself))⟩)
      refine hexec.trans (congrArg _ ?_)
      rw [happly, closeEvent_of_unraised _ hunraised]

/-! ## JOIN (R14, R26, R47, R50, R53) -/

theorem applyJoin_of_member (s : State) (x : Station) (b : JoinBody) (h : s.mu.state = .member) :
    s.applyJoin x b = s.admitMember x b.completing := if_pos h

theorem applyJoin_of_equal (s : State) (x : Station) (b : JoinBody) (h : s.mu.state ≠ .member) (hd : s.digest = some b.digest) :
    s.applyJoin x b = s.learnJoin x b.completing := (if_neg h).trans (if_pos hd)

theorem applyJoin_of_unequal (s : State) (x : Station) (b : JoinBody) (h : s.mu.state ≠ .member) (hd : s.digest ≠ some b.digest)
    (hm : s.mu.memberRecorded = false) : s.applyJoin x b = s.enterConflict false :=
  (if_neg h).trans ((if_neg hd).trans (if_neg (Bool.eq_false_iff.mp hm)))

/-- A JOIN whose digest the station has compared and found unequal is counted; a station in JOINING with no member recorded
enters CONFLICT(MAP) (R26, R50). -/
theorem endFrame_of_unequalJoin (s : State) (e : FrameEnd) (hview : s.lc.view = .inFrame) (hflight : s.lc.flight = none)
    (hslots : s.lc.slotView = none) (hhears : s.mu.state.hears = true) (hfound : e.frame.lengthFound = true)
    (hunequal : s.unequalJoin .join e.frame s.mu.state = true) :
    s.endFrame .join e = (s.setLc s.lc.afterFrame).countSpoil.joiningConflict true := by
  have hunequal' : (s.setLc s.lc.afterFrame).unequalJoin .join e.frame s.slotViewNow.state = true := hunequal
  rw [endFrame_received .join e s hview hflight, hslots, Option.getD_none]
  refine (if_pos hhears).trans ?_
  simp only [State.hear, hfound, Bool.true_eq_false, if_false, hunequal', if_true]

/-- What a JOIN of an equal digest leaves of a MEMBER, by the table (R53, R65, R82, R95, R97). -/
theorem closeEvent_applyJoin_newMember (u : State) (x : Station) (b : JoinBody) (hu : u.Unraised) (hm : u.mu.state = .member)
    (hx : x ≠ u.self) (hout : hasStation u.mu.members x = false) :
    closeEvent (u.applyJoin x b) = ({ u with
      mu := { u.mu with members := withStation u.mu.members x, foreign := setMinus u.mu.foreign (oneStation x) },
      lp := u.lp.enqueue (EventRecord.joined x), free := u.free + 1 } : State).rankRetest := by
  have hset := hu.setMu { u.mu with members := withStation u.mu.members x, foreign := setMinus u.mu.foreign (oneStation x) }
    (.inr (.inr (withStation_ne_oneStation _ _ _ hx)))
  have happly : u.applyJoin x b =
      ((u.setMu { u.mu with members := withStation u.mu.members x,
                            foreign := setMinus u.mu.foreign (oneStation x) }).raise (EventRecord.joined x)).rankRetest :=
    (applyJoin_of_member u x b hm).trans (if_neg (Bool.eq_false_iff.mp hout))
  rw [happly]
  exact apart_rankRetest.closeEvent_raise _ _ hset.rankRetest

theorem closeEvent_applyJoin_rejoined (u : State) (x : Station) (b : JoinBody) (hu : u.Unraised) (hm : u.mu.state = .member)
    (hin : hasStation u.mu.members x = true) :
    closeEvent (u.applyJoin x b) = ({ u with
      cu := { u.cu with
        record := u.cu.record.map (fun r =>
          { r with required := setMinus r.required (oneStation x), ready := setMinus r.ready (oneStation x) }) },
      lp := u.lp.enqueue (EventRecord.joined x), free := u.free + 1 } : State).completionCheck b.completing := by
  have happly : u.applyJoin x b =
      ((u.raise (EventRecord.joined x)).recordLoses (oneStation x)).completionCheck b.completing :=
    (applyJoin_of_member u x b hm).trans (if_pos hin)
  have hjoined := ((apart_completionCheck b.completing).comp (apart_recordLoses (oneStation x))).closeEvent_raise u
    (EventRecord.joined x) ((hu.recordLoses _).completionCheck _)
  rw [happly]
  refine hjoined.trans ?_
  rw [recordLoses_eq]
  rfl

/-- What such a JOIN leaves of a station in LISTEN or JOINING (R47). -/
theorem closeEvent_applyJoin_learned (u : State) (x : Station) (b : JoinBody) (hu : u.Unraised) (hm : u.mu.state ≠ .member)
    (hd : u.digest = some b.digest) (hout : hasStation u.mu.members x = false) :
    closeEvent (u.applyJoin x b) =
      { u with mu := { u.mu with members := withStation u.mu.members x, memberRecorded := true } } := by
  have hset := hu.setMu { u.mu with members := withStation u.mu.members x, memberRecorded := true } (.inl hm)
  have happly : u.applyJoin x b = u.setMu { u.mu with members := withStation u.mu.members x, memberRecorded := true } :=
    (applyJoin_of_equal u x b hm hd).trans (if_neg (Bool.eq_false_iff.mp hout))
  rw [happly, closeEvent_of_unraised _ hset]
  rfl

theorem closeEvent_applyJoin_relearned (u : State) (x : Station) (b : JoinBody) (hu : u.Unraised) (hm : u.mu.state ≠ .member)
    (hd : u.digest = some b.digest) (hin : hasStation u.mu.members x = true) :
    closeEvent (u.applyJoin x b) = ({ u with
      mu := { u.mu with memberRecorded := true },
      cu := { u.cu with
        record := u.cu.record.map (fun r =>
          { r with required := setMinus r.required (oneStation x), ready := setMinus r.ready (oneStation x) }) } }
      : State).completionCheck b.completing := by
  have hset := hu.setMu { u.mu with members := withStation u.mu.members x, memberRecorded := true } (.inl hm)
  have happly : u.applyJoin x b =
      ((u.setMu { u.mu with members := withStation u.mu.members x, memberRecorded := true }).recordLoses
        (oneStation x)).completionCheck b.completing :=
    (applyJoin_of_equal u x b hm hd).trans (if_pos hin)
  rw [happly, closeEvent_of_unraised _ ((hset.recordLoses _).completionCheck _), withStation_of_mem _ _ hin, recordLoses_eq]
  rfl

theorem joiningConflict_of_recorded (s : State) (h : ¬(s.mu.state = .joining ∧ s.mu.memberRecorded = false)) :
    s.joiningConflict true = s := if_neg fun hand => h hand.2

theorem joiningConflict_of_unrecorded (s : State) (h : s.mu.state = .joining) (h' : s.mu.memberRecorded = false) :
    s.joiningConflict true = s.enterConflict false := if_pos ⟨rfl, h, h'⟩

/-- A JOIN read correctly and not compared unequal is applied; one compared unequal is counted. -/
theorem exec_joinFrame_applied {dt : Nat} {s u : State} {x : Station} {b : JoinBody} (take : Bool) (hrec : s.Receiving)
    (hx : x ≠ s.self) (hlead : 1 ≤ b.completing.lead) (hlead' : b.completing.lead ≤ 4)
    (hu : u = { s with now := s.now + dt, lc := s.lc.afterFrame }) (hhears : u.mu.state.hears = true)
    (hequal : (u.mu.state ≠ .joining ∧ u.mu.state ≠ .member) ∨ u.digest = some b.digest) :
    exec (.joinFrame dt ⟨makeFrame .join x b.bytes, take, false⟩) s = .next (closeEvent (u.applyJoin x b)) := by
  have hmu : u.mu = s.mu := hu ▸ rfl
  have hd : u.digest = s.digest := hu ▸ rfl
  have hlength : b.bytes.length ≤ 200 := by rw [joinBytes_length]; omega
  have hbody : readBody s.heldMap .join x b.bytes = some (.join b) := by
    rw [readBody, readJoin_bytes b hlead hlead', Option.map_some]
  rw [hmu] at hhears hequal
  rw [hd] at hequal
  have htest : s.unequalJoin .join (makeFrame .join x b.bytes) s.mu.state = false := by
    rw [unequalJoin_of_join s x b s.mu.state hx]
    exact decide_eq_false fun ⟨hjoined, hunequal⟩ => hequal.elim (fun hother => hjoined.elim hother.1 hother.2) hunequal
  have htakes : s.slotViewNow.takes s.self x (.join b) = true := rfl
  have hexec := exec_controlFrame take hrec hhears hx hlength hbody htakes htest hu
  exact hexec

theorem effectOf_joinFrame_counted {dt : Nat} {s u : State} {x : Station} {b : JoinBody} (take spoil : Bool) (hrec : s.Receiving)
    (hx : x ≠ s.self) (hu : u = { s with now := s.now + dt, lc := s.lc.afterFrame })
    (hstate : u.mu.state = .joining ∨ u.mu.state = .member) (hunequal : u.digest ≠ some b.digest) :
    effectOf (.joinFrame dt ⟨makeFrame .join x b.bytes, take, spoil⟩) (s.advance dt) = u.countSpoil.joiningConflict true := by
  obtain ⟨hq, hview, hflight, hslots⟩ := hrec
  have hmu : u.mu = s.mu := hu ▸ rfl
  have hd : u.digest = s.digest := hu ▸ rfl
  have hlength : b.bytes.length ≤ 200 := by rw [joinBytes_length]; omega
  rw [hmu] at hstate
  rw [hd] at hunequal
  have htest : s.unequalJoin .join (makeFrame .join x b.bytes) s.mu.state = true := by
    rw [unequalJoin_of_join s x b s.mu.state hx]
    exact decide_eq_true ⟨hstate, hunequal⟩
  have hend := endFrame_of_unequalJoin (s.advance dt) ⟨makeFrame .join x b.bytes, take, spoil⟩ hview hflight hslots
    (hears_of_listed (.inr hstate)) (makeFrame_sound .join x b.bytes hlength).length htest
  rw [hu]
  exact hend

/-- Settles O44: by the digest, the station state and the table. -/
theorem joinFrameIsAppliedByState : Obligations.JoinFrameIsAppliedByState := by
  rintro dt s u x b ⟨frame, take, spoil⟩ hrec hdigest hx hlead hlead' rfl hu
  have hunraised : u.Unraised := hu ▸ unraised_of_quiet s hrec.1
  have hxu : x ≠ u.self := hu ▸ hx
  have hmu : u.mu = s.mu := hu ▸ rfl
  have hd : u.digest = s.digest := hu ▸ rfl
  rw [← hd, ← hmu]
  refine ⟨fun hequal hspoil => ?equal, fun hunequal hstate => ?spoiled, fun hunequal hstate => ?conflict⟩
  case equal =>
    obtain rfl : spoil = false := hspoil
    have hexec := fun hstate : u.mu.state = .listen ∨ u.mu.state = .joining ∨ u.mu.state = .member =>
      exec_joinFrame_applied take hrec hx hlead hlead' hu (hears_of_listed hstate) (.inr hequal)
    have hother : u.mu.state = .listen ∨ u.mu.state = .joining → u.mu.state ≠ .member := by
      rintro (h | h) <;> rw [h] <;> decide
    refine ⟨fun hstate hout => ?_, fun hstate hin => ?_, fun hstate hout => ?_, fun hstate hin => ?_⟩
    · rw [hexec (.inr (.inr hstate)), closeEvent_applyJoin_newMember u x b hunraised hstate hxu hout]
    · rw [hexec (.inr (.inr hstate)), closeEvent_applyJoin_rejoined u x b hunraised hstate hin]
    · rw [hexec (or_assoc.mp (.inl hstate)), closeEvent_applyJoin_learned u x b hunraised (hother hstate) hequal hout]
    · rw [hexec (or_assoc.mp (.inl hstate)), closeEvent_applyJoin_relearned u x b hunraised (hother hstate) hequal hin]
  case spoiled =>
    have hkept : ¬(u.countSpoil.mu.state = .joining ∧ u.countSpoil.mu.memberRecorded = false) := by
      rintro ⟨hjoining, hnone⟩
      rcases hstate with hmember | ⟨_, hrecorded⟩
      · exact absurd (hmember.symm.trans hjoining) (by decide)
      · exact absurd (hrecorded.symm.trans hnone) (by decide)
    have heffect := effectOf_joinFrame_counted take spoil hrec hx hu (hstate.symm.imp_left And.left) hunequal
    rw [joiningConflict_of_recorded _ hkept] at heffect
    exact exec_of_effect rfl hrec.1 heffect hunraised
  case conflict =>
    rcases hstate with ⟨hstate, hrecorded⟩ | ⟨hstate, hrecorded, hspoil⟩
    · have heffect := effectOf_joinFrame_counted take spoil hrec hx hu (.inl hstate) hunequal
      have hconflict := heffect.trans (joiningConflict_of_unrecorded u.countSpoil hstate hrecorded)
      obtain ⟨t, hexec, hstate', hcause, _⟩ := exec_of_conflict rfl hrec.1 hconflict hunraised
      exact ⟨t, hexec, hstate', hcause⟩
    · obtain rfl : spoil = false := hspoil
      have hexec := exec_joinFrame_applied take hrec hx hlead hlead' hu (by rw [hstate]; rfl) (b := b) (.inl (by rw [hstate]; decide))
      rw [applyJoin_of_unequal u x b (by rw [hstate]; decide) hunequal hrecorded] at hexec
      obtain ⟨hstate', hcause, _⟩ := closeEvent_enterConflict u false hunraised
      exact ⟨_, hexec, hstate', hcause⟩

end Sys2Proof.Machine

/-! PROOFS. The Membership Unit (chapters 3 and 5): LEAVE and DROP of other stations. -/

namespace Sys2Proof.Machine

/-! ## A MEMBER that loses stations (R44, R82, R95, R150, R165) -/

/-- A MEMBER without some stations, before the DROP set and the ranks are looked at. -/
def State.shorn (u : State) (m : StationSet) : State :=
  { u with
    mu := { u.mu with members := setMinus u.mu.members m },
    lc := u.lc.without m, we := u.we.without m,
    cu := { u.cu with
      record := u.cu.record.map (fun r => { r with required := setMinus r.required m, ready := setMinus r.ready m }) } }

theorem bereft_eq (u : State) (m : StationSet) : u.bereft m = ((u.shorn m).dropLoses m).rankRetest := rfl

theorem bereft_self (u : State) (m : StationSet) : (u.bereft m).self = u.self := by
  rw [State.bereft, State.self, State.self]
  simp

theorem bereft_lp (u : State) (m : StationSet) : (u.bereft m).lp = u.lp := by
  rw [State.bereft]
  simp

theorem State.Unraised.bereft {u : State} (h : u.Unraised) (m : StationSet)
    (hm : u.mu.state ≠ .member ∨ u.mu.synced = true ∨ setMinus u.mu.members m ≠ oneStation u.self) : (u.bereft m).Unraised := by
  have hset := h.setMu { u.mu with members := setMinus u.mu.members m } hm
  have hparts : (u.bereft m).lp = (u.setMu { u.mu with members := setMinus u.mu.members m }).lp := bereft_lp u m
  refine hset.of_view hparts ?_ ?_ <;> (rw [State.bereft]; simp)

/-- The removal with the record of its cause and the completion check that follows: what `State.bereft` says, with counts and
records. -/
theorem lose_raise_completionCheck (u : State) (m : StationSet) (e : EventRecord) (k : Completing) (hm : m ≠ 0#16) :
    ((u.lose m).raise e).completionCheck k = ((u.bereft m).completionCheck k).setLp
      { u.lp with counters := u.goneCounters m, raised := u.lp.raised ++ (u.goneRecords m ++ [e]) } := by
  rw [lose_eq u m hm, State.raise, completionCheck_setLp, completionCheck_setLp, ← List.append_assoc]
  rfl

/-- The end of an event that removed stations, with the records told first and last. -/
theorem closeEvent_bereft (u : State) (m : StationSet) (e : EventRecord) (k : Completing) (last : List EventRecord)
    (hu : u.Unraised) (halone : u.mu.state ≠ .member ∨ u.mu.synced = true ∨ setMinus u.mu.members m ≠ oneStation u.self) :
    State.Reported ((u.bereft m).completionCheck k)
      (closeEvent (((u.bereft m).completionCheck k).setLp
        { u.lp with counters := u.goneCounters m, raised := u.lp.raised ++ (u.goneRecords m ++ [e]), raisedAfter := last }))
      (u.goneCounters m) (e :: u.goneRecords m) last := by
  have hv := (hu.bereft m halone).completionCheck k
  have hlp : ((u.bereft m).completionCheck k).lp = u.lp := ((apart_completionCheck k).lp _).trans (bereft_lp u m)
  have hperm : (u.goneRecords m ++ [e]).Perm (e :: u.goneRecords m) := List.perm_append_singleton _ _
  obtain ⟨hstate, hroom⟩ := closeEvent_reported _ (u.goneCounters m) (u.goneRecords m ++ [e]) last hv
  rw [hlp] at hstate hroom
  rw [hu.1, List.nil_append]
  refine ⟨hlp ▸ hstate, fun hl => ?_⟩
  obtain ⟨hlost, order, horder, hevents⟩ := hroom (by rw [hperm.length_eq, ← hlp]; exact hl)
  exact ⟨hlost, order, horder.trans hperm, hlp ▸ hevents⟩

/-- The end of an event whose own part is a removal. -/
theorem closeEvent_lose (u : State) (m : StationSet) (e : EventRecord) (k : Completing) (hm : m ≠ 0#16) (hu : u.Unraised)
    (halone : u.mu.state ≠ .member ∨ u.mu.synced = true ∨ setMinus u.mu.members m ≠ oneStation u.self) :
    State.Reported ((u.bereft m).completionCheck k) (closeEvent (((u.lose m).raise e).completionCheck k)) (u.goneCounters m)
      (e :: u.goneRecords m) [] := by
  have hclose := closeEvent_bereft u m e k u.lp.raisedAfter hu halone
  rw [← lose_raise_completionCheck u m e k hm, hu.2.1] at hclose
  exact hclose

/-- Nothing is held for a station: nothing is counted and nothing told. -/
theorem gone_of_nothingHeld (u : State) (m : StationSet) (h : ∀ x, hasStation m x = true → u.heldFor x = []) :
    u.goneCounters m = u.lp.counters ∧ u.goneRecords m = [] := by
  have hmem : ∀ x ∈ (List.finRange 16).filter (fun x => hasStation m x), u.heldFor x = [] := by
    intro x hx
    exact h x (List.mem_filter.mp hx).2
  have hlengths : (((List.finRange 16).filter (fun x => hasStation m x)).map (fun x => (u.heldFor x).length)).sum = 0 := by
    rw [List.sum_eq_zero]
    intro n hn
    obtain ⟨x, hx, rfl⟩ := List.mem_map.mp hn
    rw [hmem x hx, List.length_nil]
  refine ⟨?_, ?_⟩
  · rw [State.goneCounters, hlengths, saturate_zero]
  · rw [State.goneRecords, List.filterMap_eq_nil_iff]
    intro x hx
    rw [hmem x hx]
    rfl

/-- The link without what it held for one station, when that is nothing but the addressee's record. -/
theorem without_of_noEntries (l : Link) (x : Station) (h : ∀ e ∈ l.outbound, e.addressee ≠ x) :
    l.without (oneStation x) =
      { l with addressees := l.addressees.set x.val { attempts := 0, expiry := none } x.isLt } := by
  have hout : l.outbound.filter (fun e => !hasStation (oneStation x) e.addressee) = l.outbound := by
    rw [List.filter_eq_self]
    intro e he
    simpa using (h e he).symm
  have haddr : (Vector.ofFn (fun y : Fin 16 => if hasStation (oneStation x) y then ({ attempts := 0, expiry := none } : Retry)
      else l.addressees[y.val])) = l.addressees.set x.val { attempts := 0, expiry := none } x.isLt := by
    ext i hi
    by_cases hxi : x.val = i
    · subst hxi
      simp
    · have : ¬x = (⟨i, hi⟩ : Fin 16) := fun e => hxi (by rw [e])
      simp [hxi, this]
  rw [Link.without, hout, haddr]

theorem window_without_of_noRuns (w : Window) (m : StationSet) (h : w.waitingSpans = []) (h' : w.openRun = none) :
    w.without m = w := by
  rw [Window.without, h, h', List.filter_nil, Option.filter_none, ← h, ← h']

/-! ## LEAVE (R48, R57) -/

theorem applyLeave_of_unlisted (s : State) (x : Station) (k : Completing) (h : hasStation s.mu.members x = false) :
    s.applyLeave x k = s := if_pos (by rw [h]; rfl)

theorem applyLeave_of_member (s : State) (x : Station) (k : Completing) (h : hasStation s.mu.members x = true)
    (hm : s.mu.state = .member) : s.applyLeave x k = ((s.lose (oneStation x)).raise (EventRecord.left x)).completionCheck k :=
  (if_neg (by rw [h]; decide)).trans (if_pos hm)

theorem applyLeave_of_learning (s : State) (x : Station) (k : Completing) (h : hasStation s.mu.members x = true)
    (hm : s.mu.state ≠ .member) : s.applyLeave x k =
      ((s.setMu { s.mu with members := setMinus s.mu.members (oneStation x) }).recordLoses (oneStation x)).completionCheck k :=
  (if_neg (by rw [h]; decide)).trans (if_neg hm)

/-- An event that leaves an unsynced MEMBER alone ends with a founding (R55). -/
theorem closeEvent_founds (w : State) (h : w.refoundDue = true) :
    (closeEvent w).mu = { w.mu with state := .member, synced := true, founder := true, members := oneStation w.self } ∧
      (closeEvent w).tu.count = 0#32 ∧
      (closeEvent w).cu = { record := some { collecting := 0#16, required := oneStation w.self, ready := 0#16, last := none },
                            phase := .building, timer := 0 } := by
  have hrefound : w.refound = w.found.raiseAfter (EventRecord.only .founded) := if_pos h
  obtain ⟨_, _, hmu, _, htu, hcu, _⟩ := State.admitRaised_frame w.refound
  rw [closeEvent, hmu, htu, hcu, hrefound]
  exact ⟨rfl, rfl, rfl⟩

theorem lose_frame (u : State) (m : StationSet) (hm : m ≠ 0#16) (e : EventRecord) (k : Completing) :
    (((u.lose m).raise e).completionCheck k).mu = { u.mu with members := setMinus u.mu.members m } ∧
      (((u.lose m).raise e).completionCheck k).self = u.self := by
  rw [lose_raise_completionCheck u m e k hm, State.bereft, State.self, State.self]
  constructor <;> simp

theorem exec_leaveFrame_applied {dt : Nat} {s u : State} {x : Station} {b : LeaveBody} (take : Bool) (hrec : s.Receiving)
    (hx : x ≠ s.self) (hlead : 1 ≤ b.completing.lead) (hlead' : b.completing.lead ≤ 4)
    (hu : u = { s with now := s.now + dt, lc := s.lc.afterFrame })
    (hstate : u.mu.state = .listen ∨ u.mu.state = .joining ∨ u.mu.state = .member) :
    exec (.leaveFrame dt ⟨makeFrame .leave x b.bytes, take, false⟩) s = .next (closeEvent (u.applyLeave x b.completing)) := by
  have hmu : u.mu = s.mu := hu ▸ rfl
  have hlength : b.bytes.length ≤ 200 := by simp [LeaveBody.bytes, completing_length]
  have hbody : readBody s.heldMap .leave x b.bytes = some (.leave b) := by
    rw [readBody, readLeave_bytes b hlead hlead', Option.map_some]
  rw [hmu] at hstate
  have htakes : s.slotViewNow.takes s.self x (.leave b) = true := rfl
  have hexec := exec_controlFrame take hrec (hears_of_listed hstate) hx hlength hbody htakes
    (unequalJoin_of_other s _ _ _ (by decide)) hu
  exact hexec

/-- What a LEAVE leaves of a MEMBER that holds nothing for its sender. -/
theorem closeEvent_applyLeave_nothingHeld (u : State) (x : Station) (k : Completing) (hu : u.Unraised)
    (hm : u.mu.state = .member) (hin : hasStation u.mu.members x = true) (hout : ∀ e ∈ u.lc.outbound, e.addressee ≠ x)
    (hwaiting : u.we.waitingSpans = []) (hopen : u.we.openRun = none)
    (halone : u.mu.synced = true ∨ setMinus u.mu.members (oneStation x) ≠ oneStation u.self) :
    closeEvent (u.applyLeave x k) =
      ((({ u with
          mu := { u.mu with members := setMinus u.mu.members (oneStation x) },
          lc := { u.lc with addressees := u.lc.addressees.set x.val { attempts := 0, expiry := none } x.isLt },
          cu := { u.cu with
            record := u.cu.record.map (fun r =>
              { r with required := setMinus r.required (oneStation x), ready := setMinus r.ready (oneStation x) }) },
          lp := u.lp.enqueue (EventRecord.left x), free := u.free + 1 } : State).dropLoses (oneStation x)).rankRetest
            ).completionCheck k := by
  have hheld : ∀ y, hasStation (oneStation x) y = true → u.heldFor y = [] := by
    intro y hy
    obtain rfl : x = y := by simpa using hy
    have hnone : u.lc.outbound.filter (fun e => e.addressee = x) = [] := by
      rw [List.filter_eq_nil_iff]
      intro e he
      simpa using hout e he
    rw [State.heldFor, hnone, hwaiting, hopen]
    rfl
  obtain ⟨hcounters, hrecords⟩ := gone_of_nothingHeld u (oneStation x) hheld
  have hlose : u.lose (oneStation x) = u.bereft (oneStation x) := by
    rw [lose_eq u _ (oneStation_ne_zero x), hcounters, hrecords, List.append_nil]
    exact congrArg (u.bereft (oneStation x)).setLp (bereft_lp u _).symm
  have hv := (hu.bereft (oneStation x) (.inr halone)).completionCheck k
  have hshorn : u.shorn (oneStation x) = { u with
      mu := { u.mu with members := setMinus u.mu.members (oneStation x) },
      lc := { u.lc with addressees := u.lc.addressees.set x.val { attempts := 0, expiry := none } x.isLt },
      cu := { u.cu with
        record := u.cu.record.map (fun r =>
          { r with required := setMinus r.required (oneStation x), ready := setMinus r.ready (oneStation x) }) } } := by
    rw [State.shorn, without_of_noEntries u.lc x hout, window_without_of_noRuns u.we _ hwaiting hopen]
  have hclose := ((apart_completionCheck k).comp (apart_rankRetest.comp (apart_dropLoses (oneStation x)))).closeEvent_raise
    (u.shorn (oneStation x)) (EventRecord.left x) hv
  have hraise := (apart_rankRetest.comp (apart_dropLoses (oneStation x))).raise (u.shorn (oneStation x)) (EventRecord.left x)
  rw [applyLeave_of_member u x k hin hm, hlose, bereft_eq, ← hraise, hclose, hshorn]
  rfl

/-- Settles O45: by the station state, the table and what is held. -/
theorem leaveFrameRemovesItsSender : Obligations.LeaveFrameRemovesItsSender := by
  intro dt s u x b take hrec hx hlead hlead' hu
  have hunraised : u.Unraised := hu ▸ unraised_of_quiet s hrec.1
  have hself : u.self = s.self := hu ▸ rfl
  have hmu : u.mu = s.mu := hu ▸ rfl
  have hexec := exec_leaveFrame_applied take hrec hx hlead hlead' hu
  have hzero := oneStation_ne_zero x
  rw [← hmu, ← hself]
  refine ⟨fun hstate hin hout hwaiting hopen halone => ?nothingHeld, fun hstate hin halone => ?removed,
    fun hstate hsynced hin halone => ?founded, fun hstate hin => ?learning, fun hstate hout => ?unlisted⟩
  case nothingHeld =>
    have hlc : u.lc.outbound = s.lc.outbound := hu ▸ rfl
    have hwe : u.we = s.we := hu ▸ rfl
    rw [hexec (.inr (.inr hstate)), closeEvent_applyLeave_nothingHeld u x b.completing hunraised hstate hin
      (hlc ▸ hout) (hwe ▸ hwaiting) (hwe ▸ hopen) halone]
  case removed =>
    have hcounters : s.goneCounters (oneStation x) = u.goneCounters (oneStation x) := hu ▸ rfl
    have hrecords : s.goneRecords (oneStation x) = u.goneRecords (oneStation x) := hu ▸ rfl
    have hclose := closeEvent_lose u (oneStation x) (EventRecord.left x) b.completing hzero hunraised (.inr halone)
    rw [← applyLeave_of_member u x b.completing hin hstate] at hclose
    rw [hcounters, hrecords]
    exact ⟨_, hexec (.inr (.inr hstate)), hclose⟩
  case founded =>
    obtain ⟨hmembers, hself'⟩ := lose_frame u (oneStation x) hzero (EventRecord.left x) b.completing
    obtain ⟨hmu', hcount, hcu⟩ := closeEvent_founds
      (((u.lose (oneStation x)).raise (EventRecord.left x)).completionCheck b.completing)
      (by rw [State.refoundDue, hmembers, hself']; simp [hstate, hsynced, halone])
    rw [← applyLeave_of_member u x b.completing hin hstate] at hmu' hcount hcu
    refine ⟨_, hexec (.inr (.inr hstate)), hmu'.trans ?_, hcount, hcu.trans ?_⟩
    · rw [applyLeave_of_member u x b.completing hin hstate, hmembers, hself', ← hstate]
    · rw [applyLeave_of_member u x b.completing hin hstate, hself']
  case learning =>
    have hother : u.mu.state ≠ .member := by rcases hstate with h | h <;> rw [h] <;> decide
    have hset := hunraised.setMu { u.mu with members := setMinus u.mu.members (oneStation x) } (.inl hother)
    rw [hexec (or_assoc.mp (.inl hstate)), applyLeave_of_learning u x b.completing hin hother,
      closeEvent_of_unraised _ ((hset.recordLoses _).completionCheck _), recordLoses_eq]
    rfl
  case unlisted =>
    rw [hexec hstate, applyLeave_of_unlisted u x b.completing hout, closeEvent_of_unraised _ hunraised]

/-! ## DROP (R31, R48, R58, R61) -/

theorem dropLoses_of_none (s : State) (m : StationSet) (h : s.lc.slots.drop = none) : s.dropLoses m = s := by
  rw [State.dropLoses, h]

theorem dropLoses_of_some (s : State) (m : StationSet) (d : DropSlot) (h : s.lc.slots.drop = some d) :
    s.dropLoses m = s.setSlots { s.lc.slots with
      drop := if setMinus d.stations m = 0#16 then none else some { d with stations := setMinus d.stations m } } := by
  rw [State.dropLoses, h]
  by_cases hempty : setMinus d.stations m = 0#16
  · exact (if_pos hempty).trans (by rw [if_pos hempty])
  · exact (if_neg hempty).trans (by rw [if_neg hempty])

theorem setMinus_inter (m n : StationSet) : setMinus m (n &&& m) = setMinus m n := by
  apply BitVec.eq_of_getLsbD_eq
  intro i hi
  simp only [setMinus, BitVec.getLsbD_and, BitVec.getLsbD_not]
  cases m.getLsbD i <;> simp

theorem applyDrop_of_named (s : State) (b : DropBody) (hm : s.mu.state = .member) (h : hasStation b.stations s.self = true) :
    s.applyDrop b = s.evict false := (if_pos hm).trans (if_pos h)

theorem applyDrop_of_noMember (s : State) (b : DropBody) (hm : s.mu.state = .member) (h : hasStation b.stations s.self = false)
    (hgone : b.stations &&& s.mu.members = 0#16) : s.applyDrop b = s.completionCheck b.completing := by
  have hlose : s.lose (b.stations &&& s.mu.members) = s := if_pos hgone
  have hreport : s.reportDropped (b.stations &&& s.mu.members) b.epoch = s := if_pos hgone
  refine (if_pos hm).trans ((if_neg (Bool.eq_false_iff.mp h)).trans ?_)
  rw [hlose, hreport]

theorem applyDrop_of_others (s : State) (b : DropBody) (hm : s.mu.state = .member) (h : hasStation b.stations s.self = false)
    (hgone : b.stations &&& s.mu.members ≠ 0#16) :
    s.applyDrop b = ((s.lose (b.stations &&& s.mu.members)).raise
      (EventRecord.dropped (b.stations &&& s.mu.members) b.epoch)).completionCheck b.completing := by
  have hreport : ∀ t : State, t.reportDropped (b.stations &&& s.mu.members) b.epoch =
      t.raise (EventRecord.dropped (b.stations &&& s.mu.members) b.epoch) := fun t => if_neg hgone
  refine (if_pos hm).trans ((if_neg (Bool.eq_false_iff.mp h)).trans ?_)
  rw [hreport]

theorem applyDrop_of_learning (s : State) (b : DropBody) (hm : s.mu.state ≠ .member) :
    s.applyDrop b = ((s.setMu { s.mu with members := setMinus s.mu.members b.stations }).recordLoses
      (b.stations &&& s.mu.members)).completionCheck b.completing := by
  refine (if_neg hm).trans ?_
  rw [setMinus_inter]
  rfl

theorem exec_dropFrame_applied {dt : Nat} {s u : State} {x : Station} {b : DropBody} (take : Bool) (hrec : s.Receiving)
    (hx : x ≠ s.self) (hlead : 1 ≤ b.completing.lead) (hlead' : b.completing.lead ≤ 4) (hsome : b.stations ≠ 0#16)
    (hu : u = { s with now := s.now + dt, lc := s.lc.afterFrame })
    (hstate : u.mu.state = .listen ∨ u.mu.state = .joining ∨ u.mu.state = .member) :
    exec (.dropFrame dt ⟨makeFrame .drop x b.bytes, take, false⟩) s = .next (closeEvent (u.applyDrop b)) := by
  have hmu : u.mu = s.mu := hu ▸ rfl
  have hlength : b.bytes.length ≤ 200 := by simp [DropBody.bytes, completing_length]
  have hbody : readBody s.heldMap .drop x b.bytes = some (.drop b) := by
    rw [readBody, readDrop_bytes b hlead hlead' hsome, Option.map_some]
  rw [hmu] at hstate
  have htakes : s.slotViewNow.takes s.self x (.drop b) = true := rfl
  have hexec := exec_controlFrame take hrec (hears_of_listed hstate) hx hlength hbody htakes
    (unequalJoin_of_other s _ _ _ (by decide)) hu
  exact hexec

/-- A record raised with a teardown is in the queue where there is room. -/
theorem mem_events_of_tornDown {u t : State} {state : StationState} {cause : Cause} {e : EventRecord}
    (h : (u.tornDown state cause).Reported t u.lp.counters (u.tearRecords e) []) (hroom : u.lp.events.length < 31) :
    e ∈ t.lp.events := by
  obtain ⟨_, hqueue⟩ := h
  have hevents : (u.tornDown state cause).lp.events = u.lp.events := (port_endStream_fields u.lp).1
  have hfew : (u.tearRecords e).length ≤ 2 := by
    unfold State.tearRecords
    split <;> simp
  obtain ⟨_, order, hperm, horder⟩ := hqueue (by rw [hevents, List.length_nil]; omega)
  have hmem : e ∈ order := hperm.mem_iff.mpr (by simp [State.tearRecords])
  rw [horder]
  simp [hmem]

/-- Settles O47: the DROP set by what is left of it, the frame by whom it names. -/
theorem dropFrameEvictsTheNamed : Obligations.DropFrameEvictsTheNamed := by
  refine ⟨fun s m => ⟨dropLoses_of_none s m, fun d hd => dropLoses_of_some s m d hd⟩,
    fun dt s u x b take hrec hx hlead hlead' hsome hu => ?frame⟩
  have hunraised : u.Unraised := hu ▸ unraised_of_quiet s hrec.1
  have hself : u.self = s.self := hu ▸ rfl
  have hmu : u.mu = s.mu := hu ▸ rfl
  have hexec := exec_dropFrame_applied take hrec hx hlead hlead' hsome hu
  rw [← hmu, ← hself]
  refine ⟨fun hstate hnamed => ?evicted, fun hstate hnamed hgone => ?nobody, fun gone hstate hnamed halone hgone hnonempty => ?others,
    fun hstate => ?learning⟩
  case evicted =>
    have hrep := closeEvent_teardown u .evicted .dropped (.evicted false) hunraised (by decide)
    have happly : u.applyDrop b = (u.teardown .evicted .dropped).raise (.evicted false) := applyDrop_of_named u b hstate hnamed
    rw [← happly] at hrep
    have hevent := fun hroom => mem_events_of_tornDown hrep hroom
    obtain ⟨ht, hqueue⟩ := hrep
    have hsend := hexec (.inr (.inr hstate))
    obtain ⟨t, htdef⟩ : ∃ t, t = closeEvent (u.applyDrop b) := ⟨_, rfl⟩
    rw [← htdef] at ht hevent hsend
    obtain ⟨_, _, hresult, _⟩ := port_endStream_fields u.lp
    have hlc : u.lc.emptied = { u.lc with slots := Slots.empty, outbound := [], addressees := freshAddressees } := by
      rw [hu]
      rfl
    have hbanks : u.fs.operation = none → u.abandonOperation.fs.bankA = u.fs.bankA ∧ u.abandonOperation.fs.bankB = u.fs.bankB := by
      intro hnone
      rw [abandonOperation_of_none u hnone]
      exact ⟨rfl, rfl⟩
    refine ⟨t, hsend, ?_, ?_, ?_, ?_, ?_, ?_, ?_, fun hnone => ?_, ?_, ?_, hevent⟩
    · rw [ht]; rfl
    · rw [ht]; rfl
    · rw [ht, ← hlc]; rfl
    · rw [ht]; rfl
    · rw [ht]; rfl
    · rw [ht]; rfl
    · rw [ht]; rfl
    · rw [ht]
      exact hbanks hnone
    · rw [ht]
    · rw [ht]
      exact hresult
  case nobody =>
    rw [hexec (.inr (.inr hstate)), applyDrop_of_noMember u b hstate hnamed hgone,
      closeEvent_of_unraised _ (hunraised.completionCheck _)]
  case others =>
    subst hgone
    have hcounters : s.goneCounters (b.stations &&& u.mu.members) = u.goneCounters (b.stations &&& u.mu.members) := hu ▸ rfl
    have hrecords : s.goneRecords (b.stations &&& u.mu.members) = u.goneRecords (b.stations &&& u.mu.members) := hu ▸ rfl
    have hclose := closeEvent_lose u _ (EventRecord.dropped (b.stations &&& u.mu.members) b.epoch) b.completing hnonempty
      hunraised (.inr halone)
    rw [← applyDrop_of_others u b hstate hnamed hnonempty] at hclose
    rw [hcounters, hrecords]
    exact ⟨_, hexec (.inr (.inr hstate)), hclose⟩
  case learning =>
    have hother : u.mu.state ≠ .member := by rcases hstate with h | h <;> rw [h] <;> decide
    have hset := hunraised.setMu { u.mu with members := setMinus u.mu.members b.stations } (.inl hother)
    rw [hexec (or_assoc.mp (.inl hstate)), applyDrop_of_learning u b hother,
      closeEvent_of_unraised _ ((hset.recordLoses _).completionCheck _), recordLoses_eq]
    rfl

end Sys2Proof.Machine

/-! PROOFS. The span traffic (chapter 8): an entry received by its addressee, and the outcome of an own attempt. -/

namespace Sys2Proof.Machine

/-! ## The acceptance test and the placement (R131, R168, R169, R171) -/

theorem accepts_iff (v : SlotView) (x : Station) (e : Epoch) :
    v.accepts x e = true ↔ v.state = .member ∧ hasStation v.members x = true ∧
      (v.synced = true → ∀ b, v.backEpoch = some b → e = b ∨ e = b + 1 ∨ e = b + 2 → v.inbound < 16) := by
  simp only [SlotView.accepts, Bool.and_eq_true, decide_eq_true_eq, and_assoc]
  refine and_congr_right fun _ => and_congr_right fun _ => ?_
  cases hsynced : v.synced with
  | false => simp
  | true =>
    cases hback : v.backEpoch with
    | none => simp
    | some b =>
      have hsees : (if e = b ∨ e = b + 1 ∨ e = b + 2 then decide (v.inbound < 16) else true) = true ↔
          (e = b ∨ e = b + 1 ∨ e = b + 2 → v.inbound < 16) := by
        by_cases hnear : e = b ∨ e = b + 1 ∨ e = b + 2
        · rw [if_pos hnear, decide_eq_true_iff]
          exact ⟨fun hroom _ => hroom, fun hroom => hroom hnear⟩
        · rw [if_neg hnear]
          exact ⟨fun _ hnear' => absurd hnear' hnear, fun _ => rfl⟩
      refine Iff.trans hsees ⟨fun hroom _ b' hb' => ?_, fun hroom => hroom rfl b rfl⟩
      rw [← Option.some.inj hb']
      exact hroom

theorem holdsNext_iff (f : FrameStore) (b : Epoch) : f.holdsNext b = true ↔ ∃ e ∈ f.inbound, e.epoch = b + 1 := by
  simp [FrameStore.holdsNext]

theorem holdsNext_eq_false_iff (f : FrameStore) (b : Epoch) : f.holdsNext b = false ↔ ∀ e ∈ f.inbound, e.epoch ≠ b + 1 := by
  simp [FrameStore.holdsNext]

theorem backEpoch_of_record (s : State) (r : Record) (h : s.cu.record = some r) : s.backEpoch = some r.backEpoch := by
  rw [State.backEpoch, h, Option.map_some]

/-- An entry of the back-bank epoch behind none of the next, or of the next, enters the inbound queue. -/
theorem placeEntry_of_near (s : State) (x : Station) (b : PaintBody) (r : Record) (hr : s.cu.record = some r)
    (hroom : s.fs.inbound.length < 16)
    (h : (b.epoch = r.backEpoch ∧ ∀ e ∈ s.fs.inbound, e.epoch ≠ r.backEpoch + 1) ∨ b.epoch = r.backEpoch + 1) :
    s.placeEntry x b = s.setFs { s.fs with inbound := s.fs.inbound ++
      [{ sender := x, epoch := b.epoch, paint := b.paint, rowsDone := 0, leaving := false }] } := by
  rw [State.placeEntry, backEpoch_of_record s r hr]
  refine if_pos ⟨?_, hroom⟩
  rwa [holdsNext_eq_false_iff]

/-- Any other entry is counted as stale. -/
theorem placeEntry_of_stale (s : State) (x : Station) (b : PaintBody) (r : Record) (hr : s.cu.record = some r)
    (h : ¬((b.epoch = r.backEpoch ∧ ∀ e ∈ s.fs.inbound, e.epoch ≠ r.backEpoch + 1) ∨ b.epoch = r.backEpoch + 1)) :
    s.placeEntry x b = s.countStale 1 := by
  rw [State.placeEntry, backEpoch_of_record s r hr]
  refine if_neg fun hplaced => h ?_
  rw [← holdsNext_eq_false_iff]
  exact hplaced.1

theorem placeEntry_of_noRecord (s : State) (x : Station) (b : PaintBody) (h : s.cu.record = none) :
    s.placeEntry x b = s.countStale 1 := by
  rw [State.placeEntry, State.backEpoch, h, Option.map_none]

theorem State.Unraised.placeEntry {s : State} (h : s.Unraised) (x : Station) (b : PaintBody) : (s.placeEntry x b).Unraised := by
  unfold State.placeEntry
  split
  · exact h
  · split <;> exact h

/-! ## A SPAN or a FILL received -/

theorem length_of_readSpan {map : Option TileMap} {x : Station} {bs : List Byte} {b : PaintBody} (h : readSpan map x bs = some b) :
    bs.length ≤ 200 := by
  unfold readSpan at h
  dsimp only at h
  split at h
  · omega
  · exact absurd h nofun

theorem length_of_readFill {map : Option TileMap} {x : Station} {bs : List Byte} {b : PaintBody} (h : readFill map x bs = some b) :
    bs.length ≤ 200 := by
  unfold readFill at h
  split at h
  · omega
  · exact absurd h nofun

/-- A paint body of another station, read: it is placed when this station drove TAKE for it. -/
theorem exec_paintFrame {dt : Nat} {s u : State} {k : FrameKind} {x : Station} {b : PaintBody} (take : Bool) (v : SlotView)
    (hq : Quiet s) (hview : s.lc.view = .inFrame) (hflight : s.lc.flight = none) (hv : s.lc.slotView.getD s.slotViewNow = v)
    (hstate : s.mu.state = .listen ∨ s.mu.state = .joining ∨ s.mu.state = .member) (hx : x ≠ s.self) (hk : k ≠ .join)
    (hlength : b.bytes.length ≤ 200) (hbody : readBody s.heldMap k x b.bytes = some (.paint b))
    (hu : u = { s with now := s.now + dt, lc := s.lc.afterFrame }) :
    exec (frameCommand dt ⟨makeFrame k x b.bytes, take, false⟩ k) s =
      .next (if b.addressee = s.self.val ∧ v.accepts x b.epoch = true then u.placeEntry x b else u) := by
  have hunraised : u.Unraised := hu ▸ unraised_of_quiet s hq
  have hself : u.self = s.self := hu ▸ rfl
  have hend := endFrame_read k x b.bytes (.paint b) take (s.advance dt) v hview hflight hv (hears_of_listed hstate) hx hlength
    hbody (unequalJoin_of_other _ _ _ _ hk)
  have hadvance : (s.advance dt).setLc (s.advance dt).lc.afterFrame = u := by
    rw [hu]
    rfl
  have hown : (s.advance dt).self = s.self := rfl
  rw [hadvance, hown] at hend
  have htook : v.takes s.self x (.paint b) = (decide (b.addressee = s.self.val) && v.accepts x b.epoch) := rfl
  have heffect : (s.advance dt).endFrame k ⟨makeFrame k x b.bytes, take, false⟩ =
      if b.addressee = s.self.val ∧ v.accepts x b.epoch = true then u.placeEntry x b else u := by
    rw [hend]
    by_cases h : b.addressee = s.self.val ∧ v.accepts x b.epoch = true
    · have htakes : v.takes s.self x (.paint b) = true := by rw [htook, h.2, decide_eq_true h.1]; rfl
      rw [htakes, if_pos (.inl rfl), if_pos h]
      exact if_pos ⟨hself ▸ h.1, rfl⟩
    · have htakes : v.takes s.self x (.paint b) = false := by
        rw [htook, Bool.and_eq_false_iff, decide_eq_false_iff_not]
        by_cases hto : b.addressee = s.self.val
        · exact .inr (Bool.eq_false_iff.mpr fun haccepts => h ⟨hto, haccepts⟩)
        · exact .inl hto
      rw [htakes, if_neg h]
      cases take
      · rfl
      · exact (if_pos (.inr rfl)).trans (if_neg fun hplaced => absurd hplaced.2 (by decide))
  rw [exec_frameCommand dt _ k s hq, heffect]
  refine congrArg Host.Outcome.next (closeEvent_of_unraised _ ?_)
  split
  · exact hunraised.placeEntry x b
  · exact hunraised

/-- Settles O48: by what the slots saw, the addressee and the epochs. -/
theorem addresseePlacesCountsOrLeavesAnEntry : Obligations.AddresseePlacesCountsOrLeavesAnEntry := by
  intro dt s u x b c take hq hview hflight hx hc hu
  have hself : u.self = s.self := hu ▸ rfl
  have hcu : u.cu = s.cu := hu ▸ rfl
  have hfs : u.fs = s.fs := hu ▸ rfl
  have hlp : u.lp = s.lp := hu ▸ rfl
  have hexec : ∀ v, s.lc.slotView.getD s.slotViewNow = v →
      (s.mu.state = .listen ∨ s.mu.state = .joining ∨ s.mu.state = .member) →
      exec c s = .next (if b.addressee = s.self.val ∧ v.accepts x b.epoch = true then u.placeEntry x b else u) := by
    intro v hv hstate
    rcases hc with ⟨rfl, hread⟩ | ⟨rfl, hread⟩
    · exact exec_paintFrame (k := .span) take v hq hview hflight hv hstate hx (by decide) (length_of_readSpan hread)
        (congrArg (Option.map Body.paint) hread) hu
    · exact exec_paintFrame (k := .fill) take v hq hview hflight hv hstate hx (by decide) (length_of_readFill hread)
        (congrArg (Option.map Body.paint) hread) hu
  refine ⟨fun v r taken hv hstate hr hto hroom htaken => ?seen, fun hto hstate => ?elsewhere, fun hnone => ?now⟩
  case seen =>
    have hsent := hexec v (by rw [hv]; rfl) (.inr (.inr hstate))
    rw [← accepts_iff] at htaken
    refine ⟨fun hnot => ?_, fun htook => ⟨fun hnear => ?_, fun hstale => ?_⟩⟩
    · rw [hsent, if_neg fun h => hnot (htaken.mpr h.2)]
    · rw [hsent, if_pos ⟨hto, htaken.mp htook⟩, placeEntry_of_near u x b r (hcu ▸ hr) (hfs ▸ hroom) (hfs ▸ hnear)]
      rfl
    · rw [hsent, if_pos ⟨hto, htaken.mp htook⟩, placeEntry_of_stale u x b r (hcu ▸ hr) (hfs ▸ hstale)]
      rfl
  case elsewhere => rw [hexec _ rfl hstate, if_neg fun h => hto h.1]
  case now =>
    have hv : s.lc.slotView.getD s.slotViewNow = s.slotViewNow := by rw [hnone]; rfl
    have haccepts := accepts_iff s.slotViewNow x b.epoch
    refine ⟨fun hnot hstate => ?_, fun hto hstate hlisted => ⟨fun r hsynced hr => ?_, fun hsynced hr => ?_⟩⟩
    · rw [hexec _ hv hstate, if_neg]
      rintro ⟨hto, htook⟩
      obtain ⟨hmember, hin, _⟩ := haccepts.mp htook
      rcases hnot with hne | hne | hne
      · exact hne hto
      · exact hne hmember
      · exact absurd (hin.symm.trans hne) (by decide)
    · have hback : s.slotViewNow.backEpoch = some r.backEpoch := backEpoch_of_record s r hr
      have hsent := hexec _ hv (.inr (.inr hstate))
      have hroomy : (b.epoch = r.backEpoch ∨ b.epoch = r.backEpoch + 1 ∨ b.epoch = r.backEpoch + 2 → s.fs.inbound.length < 16) →
          exec c s = .next (u.placeEntry x b) := by
        intro hroom
        have htook := haccepts.mpr ⟨hstate, hlisted, fun _ e he => Option.some.inj (hback.symm.trans he) ▸ hroom⟩
        rw [hsent, if_pos ⟨hto, htook⟩]
      have hcountedStale : ¬((b.epoch = r.backEpoch ∧ ∀ e ∈ s.fs.inbound, e.epoch ≠ r.backEpoch + 1) ∨ b.epoch = r.backEpoch + 1) →
          u.placeEntry x b = u.countStale 1 := fun hstale => placeEntry_of_stale u x b r (hcu ▸ hr) (hfs ▸ hstale)
      refine ⟨fun ⟨hroom, hnear⟩ => ?_, fun hstale => ?_, fun ⟨hfull, hnear⟩ => ?_⟩
      · rw [hroomy fun _ => hroom, placeEntry_of_near u x b r (hcu ▸ hr) (hfs ▸ hroom) (hfs ▸ hnear)]
        rfl
      · have hother : ¬((b.epoch = r.backEpoch ∧ ∀ e ∈ s.fs.inbound, e.epoch ≠ r.backEpoch + 1) ∨
            b.epoch = r.backEpoch + 1) := by
          rcases hstale with ⟨_, ⟨hsame, e, he, hnext⟩ | htwo⟩ | ⟨hnot, hnot', _⟩
          · rintro (⟨_, hnone⟩ | hone)
            · exact hnone e he hnext
            · rw [hsame] at hone
              bv_omega
          · rintro (⟨hsame, _⟩ | hone) <;> bv_omega
          · rintro (⟨hsame, _⟩ | hone)
            · exact hnot hsame
            · exact hnot' hone
        have hroom : b.epoch = r.backEpoch ∨ b.epoch = r.backEpoch + 1 ∨ b.epoch = r.backEpoch + 2 →
            s.fs.inbound.length < 16 := by
          rcases hstale with ⟨hroom, _⟩ | ⟨hnot, hnot', hnot''⟩
          · exact fun _ => hroom
          · rintro (h | h | h)
            · exact absurd h hnot
            · exact absurd h hnot'
            · exact absurd h hnot''
        rw [hroomy hroom, hcountedStale hother]
        rfl
      · rw [hsent, if_neg]
        rintro ⟨_, htook⟩
        obtain ⟨_, _, hroom⟩ := haccepts.mp htook
        exact absurd (hroom hsynced r.backEpoch hback hnear) (Nat.not_lt.mpr hfull)
    · have htook := haccepts.mpr ⟨hstate, hlisted, fun hyes => absurd (hyes.symm.trans hsynced) (by decide)⟩
      rw [hexec _ hv (.inr (.inr hstate)), if_pos ⟨hto, htook⟩, placeEntry_of_noRecord u x b (hcu ▸ hr)]
      rfl

end Sys2Proof.Machine

/-! PROOFS. The Wall Link (chapters 2 and 8): the outcome of an own SPAN or FILL attempt. -/

namespace Sys2Proof.Machine

/-! ## The own frame on the wire (R20, R21, R28) -/

theorem firstDifference_self (n : Nat) (l : List Bool) : firstDifference n l l = none := by
  induction l generalizing n with
  | nil => rfl
  | cons x l ih => exact (if_pos rfl).trans (ih (n + 1))

/-- A frame that a station read back as it sent it is its own. -/
theorem endFrame_of_own (k : FrameKind) (a : Attempt) (take spoil : Bool) (s : State) (hview : s.lc.view = .inFrame)
    (hflight : s.lc.flight = some a) (hkind : a.frame.kind = k.code) :
    s.endFrame k ⟨a.frame, take, spoil⟩ = (s.setLc s.lc.afterFrame).ownFrame a ⟨a.frame, take, spoil⟩ := by
  have hrole : roleIn s.lc.flight k a.frame = .transmitter a := by
    simp only [roleIn, hflight, firstDifference_self]
    exact if_pos ⟨hkind, trivial⟩
  rw [State.endFrame, if_pos hview]
  simp only [hrole]

/-- The own attempt is settled at the end of its event. -/
theorem exec_ownFrame {dt : Nat} {s u : State} {a : Attempt} {k : FrameKind} (take spoil : Bool) (h : s.Sending a)
    (hkind : a.frame.kind = k.code) (hu : u = { s with now := s.now + dt, lc := s.lc.afterFrame }) :
    exec (frameCommand dt ⟨a.frame, take, spoil⟩ k) s = .next (closeEvent (u.ownFrame a ⟨a.frame, take, spoil⟩)) := by
  obtain ⟨hq, hview, hflight⟩ := h
  rw [exec_frameCommand dt _ k s hq, endFrame_of_own k a take spoil (s.advance dt) hview hflight hkind, hu]
  rfl

/-! ## An outbound attempt (R161 to R164) -/

theorem ownFrame_of_outbound (u : State) (a : Attempt) (e : OutEntry) (f : FrameEnd) (h : a.item = .outbound e) :
    u.ownFrame a f = (if verdictOf f = .spoiled then u.countSpoil else u).ownEntry e (verdictOf f) := by
  rw [State.ownFrame, h]

theorem removeHead_eq (s : State) (x : Station) :
    s.removeHead x = s.setLc { s.lc with
      outbound := s.lc.outbound.eraseP (fun q => q.addressee = x),
      addressees := s.lc.addressees.set x.val { attempts := 0, expiry := none } x.isLt } := rfl

theorem heldOff_of_few (r : Retry) (now : Nat) (h : r.attempts + 1 < 24) :
    r.heldOff now = { attempts := r.attempts + 1, expiry := some (now + holdoff (r.attempts + 1)) } := by
  have hmin : min Config.byteMax (r.attempts + 1) = r.attempts + 1 := Nat.min_eq_right (le_of_lt (lt_trans h (by decide)))
  rw [Retry.heldOff, hmin]

/-- A spoiled or unheard attempt, by the retry limit. -/
theorem ownEntry_of_spoiled (s : State) (e : OutEntry) (n : Nat) (hn : n = (s.lc.addressees[e.addressee.val]).attempts + 1)
    (h : n < 24) : s.ownEntry e .spoiled = s.setAddressee e.addressee { s.lc.addressees[e.addressee.val] with attempts := n } := by
  subst hn
  exact if_neg (Nat.not_le.mpr h)

theorem ownEntry_of_unheard (s : State) (e : OutEntry) (n : Nat) (hn : n = (s.lc.addressees[e.addressee.val]).attempts + 1)
    (h : n < 24) :
    s.ownEntry e .unheard = s.setAddressee e.addressee { attempts := n, expiry := some (s.now + holdoff n) } := by
  subst hn
  exact (if_neg (Nat.not_le.mpr h)).trans (congrArg _ (heldOff_of_few _ _ h))

theorem ownEntry_of_limit (s : State) (e : OutEntry) (v : Verdict) (hv : v ≠ .delivered)
    (h : 24 ≤ (s.lc.addressees[e.addressee.val]).attempts + 1) : s.ownEntry e v = s.giveUp e := by
  cases v with
  | delivered => exact absurd rfl hv
  | spoiled | unheard => exact if_pos h

/-- The end of an event that gave an entry up. -/
theorem closeEvent_giveUp (s : State) (e : OutEntry) (h : s.Unraised) :
    closeEvent (s.giveUp e) = (((s.removeHead e.addressee).countSpansLost 1).setLp
      (((s.removeHead e.addressee).countSpansLost 1).lp.enqueue (EventRecord.spanLost e.addressee e.epoch false))).setFree
        (s.free + 1) :=
  closeEvent_raise ((s.removeHead e.addressee).countSpansLost 1) _ h

/-- Settles O49: by the verdict and the retry limit. -/
theorem outboundAttemptLeavesRetriesOrIsLost : Obligations.OutboundAttemptLeavesRetriesOrIsLost := by
  intro dt s u a e c hsending hitem hc hu n gone again later hn hagain hlater hgone
  have hunraised : u.Unraised := hu ▸ unraised_of_quiet s hsending.1
  have haddr : u.lc.addressees = s.lc.addressees := hu ▸ rfl
  have hout : u.lc.outbound = s.lc.outbound := hu ▸ rfl
  have hnow : u.now = s.now + dt := hu ▸ rfl
  have hexec : ∀ take spoil : Bool, exec (c ⟨a.frame, take, spoil⟩) s = .next (closeEvent
      ((if verdictOf ⟨a.frame, take, spoil⟩ = .spoiled then u.countSpoil else u).ownEntry e (verdictOf ⟨a.frame, take, spoil⟩))) := by
    intro take spoil
    rw [← ownFrame_of_outbound u a e _ hitem]
    rcases hc with ⟨rfl, hkind⟩ | ⟨rfl, hkind⟩
    · exact exec_ownFrame (k := .span) take spoil hsending hkind hu
    · exact exec_ownFrame (k := .fill) take spoil hsending hkind hu
  have hspoiled : ∀ take : Bool, exec (c ⟨a.frame, take, true⟩) s = .next (closeEvent (u.countSpoil.ownEntry e .spoiled)) :=
    fun take => hexec take true
  have hunheard : exec (c ⟨a.frame, false, false⟩) s = .next (closeEvent (u.ownEntry e .unheard)) := hexec false false
  have hremoved : ∀ t : State, t.lc = u.lc → t.removeHead e.addressee = t.setLc gone := by
    intro t ht
    rw [removeHead_eq, ht, hgone, hout, haddr]
  rw [← haddr] at hn hagain
  rw [← hnow] at hlater
  refine ⟨?delivered, fun hfew => ⟨fun take => ?spoiled, ?unheard⟩, fun hmany => ⟨fun take => ?spoiledLast, ?unheardLast⟩⟩
  case delivered =>
    refine (hexec true false).trans (congrArg Host.Outcome.next ?_)
    have hbody : u.ownEntry e .delivered = u.setLc gone := hremoved u rfl
    exact (congrArg closeEvent hbody).trans (closeEvent_of_unraised _ hunraised)
  case spoiled =>
    have hbody := ownEntry_of_spoiled u.countSpoil e n hn hfew
    have hset : (u.countSpoil.setAddressee e.addressee again).Unraised := hunraised
    rw [hspoiled take, hbody, show ({ u.countSpoil.lc.addressees[e.addressee.val] with attempts := n } : Retry) = again from
      hagain.symm, closeEvent_of_unraised _ hset, ← haddr]
    rfl
  case unheard =>
    have hbody := ownEntry_of_unheard u e n hn hfew
    have hset : (u.setAddressee e.addressee later).Unraised := hunraised
    rw [hunheard, hbody, ← hlater, closeEvent_of_unraised _ hset, ← haddr]
    rfl
  case spoiledLast =>
    rw [hspoiled take, ownEntry_of_limit u.countSpoil e .spoiled (by decide) (hn ▸ hmany), closeEvent_giveUp u.countSpoil e hunraised,
      hremoved u.countSpoil rfl]
    rfl
  case unheardLast =>
    rw [hunheard, ownEntry_of_limit u e .unheard (by decide) (hn ▸ hmany), closeEvent_giveUp _ _ hunraised, hremoved _ rfl]
    rfl

end Sys2Proof.Machine

/-! PROOFS. The Wall Link (chapters 2 and 3): the outcomes of own control attempts. -/

namespace Sys2Proof.Machine

/-! ## A control slot held off (R32, R33) -/

/-- The item of a control slot. -/
def slotItem : ControlSlot → Item
  | .drop => .drop
  | .leave => .leave
  | .join => .join
  | .ready => .ready

/-- The kind of the frames of a control slot. -/
def slotKind : ControlSlot → FrameKind
  | .drop => .drop
  | .leave => .leave
  | .join => .join
  | .ready => .ready

theorem holdSlot_of_some (s : State) (slot : ControlSlot) (r : Retry) (h : s.lc.slots.retry slot = some r) :
    s.holdSlot slot = s.setSlots (s.lc.slots.setRetry slot (r.heldOff s.now)) := by
  rw [State.holdSlot, h]

theorem State.Unraised.holdSlot {s : State} (h : s.Unraised) (slot : ControlSlot) : (s.holdSlot slot).Unraised := by
  unfold State.holdSlot
  split <;> exact h

theorem State.Unraised.emptySlot {s : State} (h : s.Unraised) (slot : ControlSlot) : (s.emptySlot slot).Unraised := by
  cases slot <;> exact h

/-- The attempt count of a slot held off. -/
theorem attempts_holdSlot (s : State) (slot : ControlSlot) (r : Retry) (h : s.lc.slots.retry slot = some r) :
    (s.holdSlot slot).attempts slot = min 255 (r.attempts + 1) := by
  have hretry := retry_setRetry s.lc.slots slot r (r.heldOff s.now) h
  rw [holdSlot_of_some s slot r h, State.attempts]
  exact (congrArg (fun o : Option Retry => o.elim 0 Retry.attempts) hretry)

theorem limit_le_attempts_iff (s : State) (slot : ControlSlot) (r : Retry) (h : s.lc.slots.retry slot = some r) :
    Config.attemptLimit ≤ (s.holdSlot slot).attempts slot ↔ 23 ≤ r.attempts := by
  have hlimit : Config.attemptLimit = 24 := rfl
  rw [attempts_holdSlot s slot r h, hlimit]
  omega

theorem soleMember_iff (s : State) : s.soleMember = true ↔ s.mu.members = oneStation s.self := beq_iff_eq

theorem soleMember_holdSlot (s : State) (slot : ControlSlot) : (s.holdSlot slot).soleMember = s.soleMember := by
  unfold State.holdSlot
  split <;> rfl

/-- A slot held off and then emptied is a slot emptied. -/
theorem emptySlot_holdSlot (s : State) (slot : ControlSlot) : (s.holdSlot slot).emptySlot slot = s.emptySlot slot := by
  unfold State.holdSlot
  split
  · cases slot <;> rfl
  · rfl

/-- A spoiled control attempt is held off. -/
theorem ownFrame_of_slot_spoiled (u : State) (a : Attempt) (slot : ControlSlot) (f : WireFrame) (take : Bool)
    (h : a.item = slotItem slot) : u.ownFrame a ⟨f, take, true⟩ = u.countSpoil.holdSlot slot := by
  rw [State.ownFrame, h]
  cases slot <;> rfl

/-- An unheard control attempt below its limit is held off, at a station that is not the sole member where that matters. -/
theorem ownFrame_of_slot_unheard (u : State) (a : Attempt) (slot : ControlSlot) (r : Retry) (h : a.item = slotItem slot)
    (hr : u.lc.slots.retry slot = some r) (hlimit : slot = .ready ∨ r.attempts < 23)
    (hsole : (slot = .ready ∨ slot = .leave) → u.mu.members ≠ oneStation u.self) :
    u.ownFrame a ⟨a.frame, false, false⟩ = u.holdSlot slot := by
  have hfew : slot ≠ .ready → ¬Config.attemptLimit ≤ (u.holdSlot slot).attempts slot := by
    intro hslot
    rw [limit_le_attempts_iff u slot r hr]
    exact Nat.not_le.mpr (hlimit.resolve_left hslot)
  have hnotSole : (slot = .ready ∨ slot = .leave) → ¬u.soleMember = true := fun hslot => (soleMember_iff u).not.mpr (hsole hslot)
  rw [State.ownFrame, h]
  cases slot with
  | drop => exact if_neg (hfew (by decide))
  | join => exact if_neg (hfew (by decide))
  | ready => exact if_neg (hnotSole (.inl rfl))
  | leave =>
    have hsoleHeld : ¬(u.holdSlot .leave).soleMember = true := by
      rw [soleMember_holdSlot]
      exact hnotSole (.inr rfl)
    exact if_neg fun hgone => hgone.elim hsoleHeld (hfew (by decide))

/-! ## The beacon (R39, R72 to R80, R83) -/

theorem ownFrame_of_beacon_unheard (u : State) (a : Attempt) (h : a.item = .beacon) :
    u.ownFrame a ⟨a.frame, false, false⟩ = u.setSlots { u.lc.slots with beacon := false } := by
  rw [State.ownFrame, h]
  rfl

theorem ownFrame_of_beacon_delivered (u : State) (a : Attempt) (b : BeaconBody) (h : a.item = .beacon)
    (hb : readBeacon u.self a.frame.body = some b) :
    u.ownFrame a ⟨a.frame, true, false⟩ = (u.setSlots { u.lc.slots with beacon := false }).applyBeacon u.self b := by
  have hown : u.ownBeacon a.frame .delivered = (u.setSlots { u.lc.slots with beacon := false }).applyBeacon u.self b := by
    simp only [State.ownBeacon, hb]
  rw [State.ownFrame, h]
  exact hown

theorem applyBeacon_of_adopted (s : State) (x : Station) (b : BeaconBody) (hm : s.mu.state = .member)
    (hx : hasStation s.mu.members x = true) (hd : s.digest = some b.digest) (hself : hasStation b.members s.self = true) :
    s.applyBeacon x b = s.adopt x b := by
  unfold State.applyBeacon
  simp [hm, hx, hd, hself]

/-- An adoption makes the station synced, so none is due to found. -/
theorem State.Unraised.afterAdoption {s : State} (h : s.Unraised) (x : Station) (b : BeaconBody) (c : Configuration)
    (g : Generator) (p : Nat) : (s.afterAdoption x b c g p).Unraised := by
  obtain ⟨hr, ha, _⟩ := h
  exact ⟨hr, ha, by simp [State.refoundDue, State.afterAdoption]⟩

/-- The end of an event that adopted a beacon at a MEMBER. -/
theorem closeEvent_adopt (s : State) (x : Station) (b : BeaconBody) (c : Configuration) (g : Generator) (p : Nat)
    (hs : s.Unraised) (hm : s.mu.state = .member) (hc : s.config = some c) (hg : s.tu.generator = some g)
    (hp : s.tu.startPhase = some p) :
    (s.afterAdoption x b c g p).Reported (closeEvent (s.adopt x b)) (s.adoptionCounters b) (s.adoptionRecords x b c p) [] := by
  have hadopt : s.adopt x b = (s.afterAdoption x b c g p).setLp { (s.afterAdoption x b c g p).lp with
      counters := s.adoptionCounters b, raised := s.adoptionRecords x b c p, raisedAfter := [] } := by
    rw [adopt_eq s x b c g p hm hc hg hp, hs.1, List.nil_append, ← hs.2.1]
    rfl
  rw [hadopt]
  exact closeEvent_reported _ _ _ _ (hs.afterAdoption x b c g p)

/-- The own beacon measured against the own start field has no error. -/
theorem phaseError_zero (p : Nat) (h : 0 < p) : phaseError 0 p = (0, 0) := by
  have hpos : ¬(p : Int) < 2 * 0 := by omega
  have hneg : ¬2 * (0 : Int) ≤ -p := by omega
  exact (if_neg hpos).trans (if_neg hneg)

theorem lockAndCorrection_zero (lineTime : Nat) : lockAndCorrection 0 lineTime = (.locked, 0) :=
  if_pos (Nat.zero_le _)

theorem afterAdoption_of_noError (u : State) (x : Station) (b : BeaconBody) (c : Configuration) (g : Generator) (p : Nat)
    (hp : b.launchDelay = p) (hline : 0 < c.lineTime) (hblank : 0 < c.blank) :
    (u.afterAdoption x b c g p).tu.lock = .locked ∧
      (u.afterAdoption x b c g p).tu.count = b.count + BitVec.ofNat 32 u.tu.startsSince := by
  have hraw : (p : Int) - b.launchDelay = 0 := by omega
  have herror : phaseError ((p : Int) - b.launchDelay) ((c.blank + c.map.ownTile.height) * c.lineTime) = (0, 0) := by
    rw [hraw]
    exact phaseError_zero _ (Nat.mul_pos (by omega) hline)
  have hlock : lockFrom b c p = (.locked, 0) := by rw [lockFrom, herror, lockAndCorrection_zero]
  refine ⟨congrArg Prod.fst hlock, ?_⟩
  have hcount : u.countFrom b c p = b.count + BitVec.ofNat 32 u.tu.startsSince := by
    rw [State.countFrom, herror, show BitVec.ofInt 32 (0 : Int) = 0#32 from rfl, BitVec.add_zero]
  exact hcount

/-! ## READY (R35, R93, R94) -/

/-- A READY delivered, or unheard at a sole member, is applied. -/
theorem ownFrame_of_ready (u : State) (a : Attempt) (take : Bool) (h : a.item = .ready)
    (htake : take = true ∨ u.mu.members = oneStation u.self) :
    u.ownFrame a ⟨a.frame, take, false⟩ =
      (u.setSlots { u.lc.slots with ready := none }).applyReady u.self (ownReadyBody a.frame) := by
  rw [State.ownFrame, h]
  cases take with
  | true => rfl
  | false => exact if_pos ((soleMember_iff u).mpr (htake.resolve_left (by decide)))

theorem ownReadyApplied_eq (s : State) :
    s.ownReadyApplied s.self = s.setCu { s.cu with
      phase := if s.cu.phase = .closing then .waiting else s.cu.phase,
      timer := if s.cu.phase = .closing then 0 else s.cu.timer } := by
  rw [State.ownReadyApplied]
  by_cases h : s.cu.phase = .closing
  · simp only [h, and_self, if_true]
  · simp only [h, and_false, if_false]
    rfl

/-- The own READY taken into Y: CLOSING becomes WAITING (R94). -/
theorem applyReady_of_own (s : State) (b : ReadyBody) (r : Record) (hr : s.cu.record = some r) (hepoch : b.epoch = r.collecting)
    (hrequired : hasStation r.required s.self = true) (hready : hasStation r.ready s.self = false) :
    s.applyReady s.self b = (((s.setCu
      { record := some { r with ready := withStation r.ready s.self },
        phase := if s.cu.phase = .closing then .waiting else s.cu.phase,
        timer := if s.cu.phase = .closing then 0 else s.cu.timer }).dropLoses (oneStation s.self)).completionCheck
          b.completing) := by
  have happly := applyReady_of_collected s s.self b r hr hepoch hrequired hready
  have hself : ((s.setRecord { r with ready := withStation r.ready s.self }).dropLoses (oneStation s.self)).self = s.self := by
    rw [dropLoses_eq]
    rfl
  have hown := ownReadyApplied_eq ((s.setRecord { r with ready := withStation r.ready s.self }).dropLoses (oneStation s.self))
  rw [hself] at hown
  rw [happly, hown]
  simp only [dropLoses_eq]
  rfl

theorem State.Unraised.setCu {s : State} (h : s.Unraised) (k : Commit) : (s.setCu k).Unraised := h

theorem closeEvent_applyReady_own (s : State) (b : ReadyBody) (r : Record) (hs : s.Unraised) (hr : s.cu.record = some r)
    (hepoch : b.epoch = r.collecting) (hrequired : hasStation r.required s.self = true)
    (hready : hasStation r.ready s.self = false) :
    closeEvent (s.applyReady s.self b) = (((s.setCu
      { record := some { r with ready := withStation r.ready s.self },
        phase := if s.cu.phase = .closing then .waiting else s.cu.phase,
        timer := if s.cu.phase = .closing then 0 else s.cu.timer }).dropLoses (oneStation s.self)).completionCheck
          b.completing) := by
  rw [applyReady_of_own s b r hr hepoch hrequired hready,
    closeEvent_of_unraised _ (((hs.setCu _).dropLoses _).completionCheck _)]

theorem applyReady_of_own_again (s : State) (b : ReadyBody) (r : Record) (hr : s.cu.record = some r)
    (hepoch : b.epoch = r.collecting) (hrequired : hasStation r.required s.self = true)
    (hready : hasStation r.ready s.self = true) (hclosing : s.cu.phase = .closing) :
    s.applyReady s.self b = (s.setCu { s.cu with phase := .waiting, timer := 0 }).completionCheck b.completing := by
  have hown : s.ownReadyApplied s.self = s.setCu { s.cu with phase := .waiting, timer := 0 } := if_pos ⟨rfl, hclosing⟩
  rw [State.applyReady, hr]
  refine (if_pos ⟨hepoch, hrequired⟩).trans ((if_neg ?_).trans ((if_pos ⟨rfl, hclosing⟩).trans (by rw [hown])))
  rw [hready]
  decide

/-! ## LEAVE (R36, R57) -/

/-- A LEAVE delivered, unheard at a sole member or at its 24th attempt, makes the station DETACHED. -/
theorem ownFrame_of_leave (u : State) (a : Attempt) (take : Bool) (r : Retry) (h : a.item = .leave)
    (hr : u.lc.slots.leave = some r) (htake : take = true ∨ u.mu.members = oneStation u.self ∨ 23 ≤ r.attempts) :
    u.ownFrame a ⟨a.frame, take, false⟩ = (if take then u else u.holdSlot .leave).detach := by
  rw [State.ownFrame, h]
  cases take with
  | true => rfl
  | false =>
    have hgone : (u.holdSlot .leave).soleMember = true ∨ Config.attemptLimit ≤ (u.holdSlot .leave).attempts .leave := by
      rw [soleMember_holdSlot, soleMember_iff, limit_le_attempts_iff u .leave r hr]
      exact htake.resolve_left (by decide)
    exact if_pos hgone

/-! ## JOIN (R38, R51, R52, R55) -/

theorem ownFrame_of_join_delivered (u : State) (a : Attempt) (h : a.item = .join) :
    u.ownFrame a ⟨a.frame, true, false⟩ = (u.emptySlot .join).applyOwnJoin (completingOf a.frame.body) := by
  rw [State.ownFrame, h]
  rfl

theorem ownFrame_of_join_unheard (u : State) (a : Attempt) (r : Retry) (h : a.item = .join) (hr : u.lc.slots.join = some r)
    (hlimit : 23 ≤ r.attempts) : u.ownFrame a ⟨a.frame, false, false⟩ = (u.emptySlot .join).settleJoin := by
  rw [State.ownFrame, h, ← emptySlot_holdSlot]
  exact if_pos ((limit_le_attempts_iff u .join r hr).mpr hlimit)

/-- With no member recorded either outcome founds the wall. -/
theorem founded_of_ownJoin (v : State) (k : Completing) (h : v.mu.memberRecorded = false) :
    v.applyOwnJoin k = v.foundWall ∧ v.settleJoin = v.foundWall :=
  ⟨if_neg (Bool.eq_false_iff.mp h), if_neg (Bool.eq_false_iff.mp h)⟩

theorem closeEvent_foundWall (v : State) (hv : v.Unraised) :
    closeEvent v.foundWall = (v.found.setLp (v.lp.enqueue (EventRecord.only .founded))).setFree (v.free + 1) :=
  closeEvent_raise v.found _ ⟨hv.1, hv.2.1, by simp [State.refoundDue, State.found]⟩

/-- The station as it has become a MEMBER, before JOINED is told. -/
def State.joinedSelf (v : State) : State :=
  { v with
    mu := { v.mu with state := .member, members := withStation v.mu.members v.self },
    cu := { v.cu with phase := if v.mu.synced then .idle else .absent } }

theorem becomeMember_of_unlisted (v : State) (k : Completing) (h : hasStation v.mu.members v.self = false) :
    v.becomeMember k = (v.joinedSelf.raise (EventRecord.joined v.self)).rankRetest := if_neg (Bool.eq_false_iff.mp h)

theorem becomeMember_of_listed (v : State) (k : Completing) (h : hasStation v.mu.members v.self = true) :
    v.becomeMember k =
      ((v.joinedSelf.raise (EventRecord.joined v.self)).recordLoses (oneStation v.self)).completionCheck k := if_pos h

theorem State.Unraised.joinedSelf {v : State} (h : v.Unraised)
    (hm : v.mu.synced = true ∨ withStation v.mu.members v.self ≠ oneStation v.self) : v.joinedSelf.Unraised :=
  h.setMu { v.mu with state := .member, members := withStation v.mu.members v.self } (.inr hm)

theorem closeEvent_becomeMember_unlisted (v : State) (k : Completing) (hv : v.Unraised)
    (h : hasStation v.mu.members v.self = false)
    (hm : v.mu.synced = true ∨ withStation v.mu.members v.self ≠ oneStation v.self) :
    closeEvent (v.becomeMember k) = ((v.joinedSelf.setLp (v.joinedSelf.lp.enqueue (EventRecord.joined v.self))).setFree
      (v.joinedSelf.free + 1)).rankRetest := by
  rw [becomeMember_of_unlisted v k h]
  exact apart_rankRetest.closeEvent_raise _ _ (hv.joinedSelf hm).rankRetest

theorem closeEvent_becomeMember_listed (v : State) (k : Completing) (hv : v.Unraised)
    (h : hasStation v.mu.members v.self = true)
    (hm : v.mu.synced = true ∨ withStation v.mu.members v.self ≠ oneStation v.self) :
    closeEvent (v.becomeMember k) = (((v.joinedSelf.setLp (v.joinedSelf.lp.enqueue (EventRecord.joined v.self))).setFree
      (v.joinedSelf.free + 1)).recordLoses (oneStation v.self)).completionCheck k := by
  rw [becomeMember_of_listed v k h]
  exact ((apart_completionCheck k).comp (apart_recordLoses (oneStation v.self))).closeEvent_raise _ _
    (((hv.joinedSelf hm).recordLoses _).completionCheck _)

theorem becomeMember_mu (v : State) (k : Completing) :
    (v.becomeMember k).mu = { v.mu with state := .member, members := withStation v.mu.members v.self } ∧
      (v.becomeMember k).self = v.self := by
  cases h : hasStation v.mu.members v.self with
  | true =>
    rw [becomeMember_of_listed v k h]
    refine ⟨by simp [State.joinedSelf], ?_⟩
    rw [State.self, State.self]
    simp [State.joinedSelf]
  | false =>
    rw [becomeMember_of_unlisted v k h]
    refine ⟨by simp [State.joinedSelf], ?_⟩
    rw [State.self, State.self]
    simp [State.joinedSelf]

/-! ## DROP (R37, R58, R59) -/

theorem ownFrame_of_drop_delivered (u : State) (a : Attempt) (h : a.item = .drop) :
    u.ownFrame a ⟨a.frame, true, false⟩ = (u.dropLoses (ownDropBody a.frame).stations).applyDrop (ownDropBody a.frame) := by
  rw [State.ownFrame, h]
  rfl

theorem ownFrame_of_drop_unheard (u : State) (a : Attempt) (r : DropSlot) (h : a.item = .drop) (hr : u.lc.slots.drop = some r)
    (hlimit : 23 ≤ r.retry.attempts) :
    u.ownFrame a ⟨a.frame, false, false⟩ = ((u.emptySlot .drop).applyDrop (ownDropBody a.frame)).reportAlone := by
  have hretry : u.lc.slots.retry .drop = some r.retry := congrArg (Option.map DropSlot.retry) hr
  rw [State.ownFrame, h, ← emptySlot_holdSlot]
  exact if_pos ((limit_le_attempts_iff u .drop r.retry hretry).mpr hlimit)

end Sys2Proof.Machine

/-! PROOFS. The Wall Link (chapters 2 and 3): own control attempts settled. -/

namespace Sys2Proof.Machine

/-! ## A DROP applied alone (R37, R59) -/

theorem reportAlone_of_alone (s : State) (h : s.mu.state = .member) (h' : s.mu.members = oneStation s.self) :
    s.reportAlone = s.raiseAfter (EventRecord.only .alone) := if_pos ⟨h, (soleMember_iff s).mpr h'⟩

theorem reportAlone_of_others (s : State) (h : s.mu.members ≠ oneStation s.self) : s.reportAlone = s :=
  if_neg fun hboth => h ((soleMember_iff s).mp hboth.2)

/-- The end of an event in which a DROP removed stations, told ALONE when it was applied alone. -/
theorem closeEvent_ownDrop (v : State) (b : DropBody) (take : Bool) (hv : v.Unraised) (hm : v.mu.state = .member)
    (hsynced : v.mu.synced = true) (hnamed : hasStation b.stations v.self = false) (hgone : b.stations &&& v.mu.members ≠ 0#16) :
    State.Reported ((v.bereft (b.stations &&& v.mu.members)).completionCheck b.completing)
      (closeEvent (if !take then (v.applyDrop b).reportAlone else v.applyDrop b)) (v.goneCounters (b.stations &&& v.mu.members))
      (EventRecord.dropped (b.stations &&& v.mu.members) b.epoch :: v.goneRecords (b.stations &&& v.mu.members))
      (if take = false ∧ setMinus v.mu.members (b.stations &&& v.mu.members) = oneStation v.self then [EventRecord.only .alone]
        else []) := by
  have happly := applyDrop_of_others v b hm hnamed hgone
  obtain ⟨hmembers, hself⟩ := lose_frame v _ hgone (EventRecord.dropped (b.stations &&& v.mu.members) b.epoch) b.completing
  have hparts := lose_raise_completionCheck v _ (EventRecord.dropped (b.stations &&& v.mu.members) b.epoch) b.completing hgone
  have hclose := fun last => closeEvent_bereft v (b.stations &&& v.mu.members)
    (EventRecord.dropped (b.stations &&& v.mu.members) b.epoch) b.completing last hv (.inr (.inl hsynced))
  rw [← happly] at hmembers hself hparts
  by_cases halone : take = false ∧ setMinus v.mu.members (b.stations &&& v.mu.members) = oneStation v.self
  · obtain ⟨rfl, hleft⟩ := halone
    have hreport := reportAlone_of_alone (v.applyDrop b) (by rw [hmembers]; exact hm) (by rw [hmembers, hself]; exact hleft)
    rw [if_pos (show (!false) = true from rfl), if_pos ⟨rfl, hleft⟩, hreport, hparts]
    have hlast := hclose [EventRecord.only .alone]
    have hafter : v.lp.raisedAfter ++ [EventRecord.only .alone] = [EventRecord.only .alone] := by rw [hv.2.1, List.nil_append]
    rw [← hafter] at hlast ⊢
    exact hlast
  · have hsame : (if !take then (v.applyDrop b).reportAlone else v.applyDrop b) = v.applyDrop b := by
      cases take with
      | true => rfl
      | false =>
        refine reportAlone_of_others (v.applyDrop b) ?_
        rw [hmembers, hself]
        exact fun hleft => halone ⟨rfl, hleft⟩
    have hlast := hclose v.lp.raisedAfter
    rw [← hparts, hv.2.1] at hlast
    rw [hsame, if_neg halone]
    exact hlast

/-- The end of an event in which a DROP named no member. -/
theorem closeEvent_ownDrop_nobody (v : State) (b : DropBody) (hv : v.Unraised) (hm : v.mu.state = .member)
    (hnamed : hasStation b.stations v.self = false) (hgone : b.stations &&& v.mu.members = 0#16) :
    closeEvent (v.applyDrop b) = v.completionCheck b.completing ∧
      (v.mu.members ≠ oneStation v.self → closeEvent (v.applyDrop b).reportAlone = v.completionCheck b.completing) ∧
      (v.mu.members = oneStation v.self →
        State.Reported (v.completionCheck b.completing) (closeEvent (v.applyDrop b).reportAlone) v.lp.counters []
          [EventRecord.only .alone]) := by
  have happly := applyDrop_of_noMember v b hm hnamed hgone
  have hchecked := hv.completionCheck b.completing
  have hmembers : (v.completionCheck b.completing).mu = v.mu := by simp
  have hself : (v.completionCheck b.completing).self = v.self := by
    rw [State.self, State.self]
    simp
  have hlp : (v.completionCheck b.completing).lp = v.lp := by simp
  rw [happly]
  refine ⟨closeEvent_of_unraised _ hchecked, fun hothers => ?_, fun halone => ?_⟩
  · rw [reportAlone_of_others _ (by rw [hmembers, hself]; exact hothers), closeEvent_of_unraised _ hchecked]
  · have hreport := reportAlone_of_alone (v.completionCheck b.completing) (by rw [hmembers]; exact hm)
      (by rw [hmembers, hself]; exact halone)
    have hclose := closeEvent_reported (v.completionCheck b.completing) v.lp.counters [] [EventRecord.only .alone] hchecked
    have hraised : (v.completionCheck b.completing).raiseAfter (EventRecord.only .alone) =
        (v.completionCheck b.completing).setLp { (v.completionCheck b.completing).lp with
          counters := v.lp.counters, raised := [], raisedAfter := [EventRecord.only .alone] } := by
      rw [State.raiseAfter, hlp, hv.2.1, List.nil_append, ← hv.1]
    rw [hreport, hraised]
    exact hclose

/-! ## The number of the own frame lost (R21, R41) -/

theorem endFrame_of_displaced (k : FrameKind) (e : FrameEnd) (s : State) (a : Attempt) (n : Nat) (hview : s.lc.view = .inFrame)
    (hflight : s.lc.flight = some a) (hlost : firstDifference 0 a.frame.bits e.frame.bits = some (n, true)) (hn : 6 ≤ n) :
    s.endFrame k e = (s.setLc s.lc.afterFrame).enterConflict true := by
  have hrole : roleIn s.lc.flight k e.frame = .displaced := by
    simp only [roleIn, hflight, hlost, if_true, if_neg (Nat.not_lt.mpr hn)]
  rw [State.endFrame, if_pos hview]
  simp only [hrole]

/-! ## The outcomes, one kind after the other -/

/-- An attempt of a control slot spoiled, or unheard below its limit. -/
theorem exec_ownSlot {dt : Nat} {s u : State} {a : Attempt} (h : s.Sending a)
    (hu : u = { s with now := s.now + dt, lc := s.lc.afterFrame }) (slot : ControlSlot) (r later : Retry)
    (hr : s.lc.slots.retry slot = some r)
    (hlater : later = { attempts := min 255 (r.attempts + 1), expiry := some (s.now + dt + holdoff (min 255 (r.attempts + 1))) })
    (hitem : a.item = slotItem slot) (hkind : a.frame.kind = (slotKind slot).code) :
    (∀ take : Bool, exec (frameCommand dt ⟨a.frame, take, true⟩ (slotKind slot)) s =
      .next { u with
        lp := { u.lp with counters := { u.lp.counters with spoilsSeen := saturate u.lp.counters.spoilsSeen 1 } },
        lc := { u.lc with slots := s.lc.slots.setRetry slot later } }) ∧
    ((slot = .ready ∨ r.attempts < 23) → ((slot = .ready ∨ slot = .leave) → s.mu.members ≠ oneStation s.self) →
      exec (frameCommand dt ⟨a.frame, false, false⟩ (slotKind slot)) s =
        .next { u with lc := { u.lc with slots := s.lc.slots.setRetry slot later } }) := by
  have hunraised : u.Unraised := hu ▸ unraised_of_quiet s h.1
  have hslots : u.lc.slots = s.lc.slots := hu ▸ rfl
  have hheld : r.heldOff u.now = later := by
    rw [hlater, hu]
    rfl
  have hmu : u.mu = s.mu := hu ▸ rfl
  have hself : u.self = s.self := hu ▸ rfl
  rw [← hmu, ← hself]
  rw [← hslots] at hr ⊢
  refine ⟨fun take => ?_, fun hlimit hsole => ?_⟩
  · rw [exec_ownFrame take true h hkind hu, ownFrame_of_slot_spoiled u a slot a.frame take hitem,
      closeEvent_of_unraised _ (State.Unraised.holdSlot (s := u.countSpoil) hunraised slot),
      holdSlot_of_some u.countSpoil slot r hr, show r.heldOff u.countSpoil.now = later from hheld]
    rfl
  · rw [exec_ownFrame false false h hkind hu, ownFrame_of_slot_unheard u a slot r hitem hr hlimit hsole,
      closeEvent_of_unraised _ (hunraised.holdSlot slot), holdSlot_of_some u slot r hr, hheld]
    rfl

/-- The own beacon delivered is adopted by its sender. -/
theorem exec_ownBeacon_delivered {dt : Nat} {s u v : State} {a : Attempt} {b : BeaconBody} {c : Configuration} {g : Generator}
    {p : Nat} (h : s.Sending a) (hu : u = { s with now := s.now + dt, lc := s.lc.afterFrame }) (hitem : a.item = .beacon)
    (hkind : a.frame.kind = FrameKind.beacon.code) (hb : readBeacon s.self a.frame.body = some b) (hc : s.config = some c)
    (hg : s.tu.generator = some g) (hp : s.tu.startPhase = some p) (hm : s.mu.state = .member)
    (hin : hasStation s.mu.members s.self = true) (hd : b.digest = c.map.digest) (hlisted : hasStation b.members s.self = true)
    (hv : v = u.setSlots { u.lc.slots with beacon := false }) :
    ∃ t, exec (.beacon dt ⟨a.frame, true, false⟩) s = .next t ∧
      (v.afterAdoption s.self b c g p).Reported t (v.adoptionCounters b) (v.adoptionRecords s.self b c p) [] := by
  have hvu : v.Unraised := hv ▸ (State.Unraised.setSlots (s := u) (hu ▸ unraised_of_quiet s h.1) _)
  have hvmu : v.mu = s.mu := by rw [hv, hu]; rfl
  have hvtu : v.tu = s.tu := by rw [hv, hu]; rfl
  have hvconfig : v.config = some c := by rw [hv, hu]; exact hc
  have hvself : v.self = s.self := by rw [hv, hu]; rfl
  have hself : u.self = s.self := by rw [hu]; rfl
  have hadopt := applyBeacon_of_adopted v s.self b (by rw [hvmu]; exact hm) (by rw [hvmu]; exact hin)
    (by rw [digest_of_config v c hvconfig, hd]) (by rw [hvself]; exact hlisted)
  have hexec := exec_ownFrame true false h (k := .beacon) hkind hu
  rw [ownFrame_of_beacon_delivered u a b hitem (by rw [hself]; exact hb), ← hv, hself, hadopt] at hexec
  exact ⟨_, hexec, closeEvent_adopt v s.self b c g p hvu (by rw [hvmu]; exact hm) hvconfig (by rw [hvtu]; exact hg)
    (by rw [hvtu]; exact hp)⟩

/-- The own READY delivered, or unheard at a sole member, by what it finds in the record. -/
theorem exec_ownReady {dt : Nat} {s u v : State} {a : Attempt} {take : Bool} (h : s.Sending a)
    (hu : u = { s with now := s.now + dt, lc := s.lc.afterFrame }) (hitem : a.item = .ready)
    (hkind : a.frame.kind = FrameKind.ready.code) (htake : take = true ∨ s.mu.members = oneStation s.self)
    (hv : v = u.setSlots { u.lc.slots with ready := none }) :
    exec (.readyFrame dt ⟨a.frame, take, false⟩) s = .next (closeEvent (v.applyReady v.self (ownReadyBody a.frame))) := by
  have hself : u.self = s.self := by rw [hu]; rfl
  have hmu : u.mu = s.mu := by rw [hu]
  have hexec := exec_ownFrame take false h (k := .ready) hkind hu
  rw [ownFrame_of_ready u a take hitem (by rw [hmu, hself]; exact htake), ← hv] at hexec
  have hvself : v.self = u.self := by rw [hv]; rfl
  rw [hvself]
  exact hexec

/-- The own LEAVE settled. -/
theorem exec_ownLeave {dt : Nat} {s u : State} {a : Attempt} {r : Retry} {take : Bool} (h : s.Sending a)
    (hu : u = { s with now := s.now + dt, lc := s.lc.afterFrame }) (hitem : a.item = .leave)
    (hkind : a.frame.kind = FrameKind.leave.code) (hr : s.lc.slots.leave = some r)
    (htake : take = true ∨ s.mu.members = oneStation s.self ∨ 23 ≤ r.attempts) :
    ∃ v : State, v.Unraised ∧ v.config = s.config ∧
      exec (.leaveFrame dt ⟨a.frame, take, false⟩) s = .next (closeEvent v.detach) := by
  have hself : u.self = s.self := by rw [hu]; rfl
  have hmu : u.mu = s.mu := by rw [hu]
  have hslots : u.lc.slots = s.lc.slots := by rw [hu]; rfl
  have hunraised : u.Unraised := hu ▸ unraised_of_quiet s h.1
  have hexec := exec_ownFrame take false h (k := .leave) hkind hu
  rw [ownFrame_of_leave u a take r hitem (by rw [hslots]; exact hr) (by rw [hmu, hself]; exact htake)] at hexec
  refine ⟨_, ?_, ?_, hexec⟩
  · split
    · exact hunraised
    · exact hunraised.holdSlot .leave
  · split
    · rw [hu]
    · rw [holdSlot_of_some u .leave r (by rw [hslots]; exact hr), hu]
      rfl

/-- The own JOIN settled: delivered, or unheard at its 24th attempt. -/
theorem exec_ownJoin {dt : Nat} {s u v : State} {a : Attempt} {take : Bool} (h : s.Sending a)
    (hu : u = { s with now := s.now + dt, lc := s.lc.afterFrame }) (hitem : a.item = .join)
    (hkind : a.frame.kind = FrameKind.join.code) (htake : take = true ∨ ∃ r : Retry, s.lc.slots.join = some r ∧ 23 ≤ r.attempts)
    (hv : v = u.emptySlot .join) :
    exec (.joinFrame dt ⟨a.frame, take, false⟩) s =
      .next (closeEvent (if take then v.applyOwnJoin (completingOf a.frame.body) else v.settleJoin)) := by
  have hslots : u.lc.slots = s.lc.slots := by rw [hu]; rfl
  have hexec := exec_ownFrame take false h (k := .join) hkind hu
  have hown : u.ownFrame a ⟨a.frame, take, false⟩ =
      if take then v.applyOwnJoin (completingOf a.frame.body) else v.settleJoin := by
    cases take with
    | true => exact (ownFrame_of_join_delivered u a hitem).trans (by rw [hv]; rfl)
    | false =>
      obtain ⟨r, hr, hlimit⟩ := htake.resolve_left (by decide)
      exact (ownFrame_of_join_unheard u a r hitem (by rw [hslots]; exact hr) hlimit).trans (by rw [hv]; rfl)
  rw [hown] at hexec
  exact hexec

/-- The own DROP settled: delivered, or applied alone at its 24th attempt. -/
theorem exec_ownDrop {dt : Nat} {s u v : State} {a : Attempt} {b : DropBody} {take : Bool} (h : s.Sending a)
    (hu : u = { s with now := s.now + dt, lc := s.lc.afterFrame }) (hitem : a.item = .drop)
    (hkind : a.frame.kind = FrameKind.drop.code) (hb : b = ownDropBody a.frame)
    (htake : take = true ∨ ∃ r : DropSlot, s.lc.slots.drop = some r ∧ 23 ≤ r.retry.attempts)
    (hv : v = if take then u.dropLoses b.stations else u.emptySlot .drop) :
    exec (.dropFrame dt ⟨a.frame, take, false⟩) s =
      .next (closeEvent (if !take then (v.applyDrop b).reportAlone else v.applyDrop b)) := by
  have hslots : u.lc.slots = s.lc.slots := by rw [hu]; rfl
  have hexec := exec_ownFrame take false h (k := .drop) hkind hu
  have hown : u.ownFrame a ⟨a.frame, take, false⟩ = if !take then (v.applyDrop b).reportAlone else v.applyDrop b := by
    cases take with
    | true => exact (ownFrame_of_drop_delivered u a hitem).trans (by rw [hv, hb]; rfl)
    | false =>
      obtain ⟨r, hr, hlimit⟩ := htake.resolve_left (by decide)
      exact (ownFrame_of_drop_unheard u a r hitem (by rw [hslots]; exact hr) hlimit).trans (by rw [hv, hb]; rfl)
  rw [hown] at hexec
  exact hexec

/-- The DROP slot is no part of what a removal looks at. -/
structure SameButDropSlot (s v : State) : Prop where
  mu : v.mu = s.mu
  self : v.self = s.self
  lp : v.lp = s.lp
  unraised : v.Unraised
  counters (gone : StationSet) : s.goneCounters gone = v.goneCounters gone
  records (gone : StationSet) : s.goneRecords gone = v.goneRecords gone

theorem sameButDropSlot_of_slots {dt : Nat} {s v : State} (d : Option DropSlot) (hq : Quiet s)
    (hv : v = { s with now := s.now + dt, lc := { s.lc.afterFrame with slots := { s.lc.slots with drop := d } } }) :
    SameButDropSlot s v := by
  subst hv
  exact ⟨rfl, rfl, rfl, unraised_of_quiet s hq, fun _ => rfl, fun _ => rfl⟩

theorem sameButDropSlot_of_own {dt : Nat} {s u v : State} {m : StationSet} (take : Bool) (hq : Quiet s)
    (hu : u = { s with now := s.now + dt, lc := s.lc.afterFrame })
    (hv : v = if take then u.dropLoses m else u.emptySlot .drop) : SameButDropSlot s v := by
  subst hu
  cases take with
  | true => exact sameButDropSlot_of_slots _ hq (hv.trans (dropLoses_eq _ m))
  | false => exact sameButDropSlot_of_slots none hq hv

/-- What a JOIN delivered with a member recorded leaves, by the table (R51, R55). -/
theorem closeEvent_ownJoin_recorded (v w : State) (k : Completing) (hv : v.Unraised) (hrecorded : v.mu.memberRecorded = true)
    (hw : v.joinedSelf = w) :
    (hasStation v.mu.members v.self = false → (v.mu.synced = true ∨ withStation v.mu.members v.self ≠ oneStation v.self) →
      closeEvent (v.applyOwnJoin k) =
        ({ w with lp := w.lp.enqueue (EventRecord.joined v.self), free := w.free + 1 } : State).rankRetest) ∧
    (hasStation v.mu.members v.self = true → (v.mu.synced = true ∨ withStation v.mu.members v.self ≠ oneStation v.self) →
      closeEvent (v.applyOwnJoin k) =
        ({ w with
          cu := { w.cu with record := w.cu.record.map (fun q =>
            { q with required := setMinus q.required (oneStation v.self), ready := setMinus q.ready (oneStation v.self) }) },
          lp := w.lp.enqueue (EventRecord.joined v.self), free := w.free + 1 } : State).completionCheck k) ∧
    (v.mu.synced = false → withStation v.mu.members v.self = oneStation v.self →
      (closeEvent (v.applyOwnJoin k)).tu.count = 0#32 ∧
        (closeEvent (v.applyOwnJoin k)).mu =
          { v.mu with state := .member, synced := true, founder := true, members := oneStation v.self } ∧
        (closeEvent (v.applyOwnJoin k)).cu =
          { record := some { collecting := 0#16, required := oneStation v.self, ready := 0#16, last := none },
            phase := .building, timer := 0 }) := by
  have hjoin : v.applyOwnJoin k = v.becomeMember k := if_pos hrecorded
  rw [hjoin]
  refine ⟨fun hout hothers => ?_, fun hin hothers => ?_, fun hsynced halone => ?_⟩
  · rw [closeEvent_becomeMember_unlisted v k hv hout hothers, hw]
    rfl
  · rw [closeEvent_becomeMember_listed v k hv hin hothers, hw, recordLoses_eq]
    rfl
  · obtain ⟨hmembers, hself⟩ := becomeMember_mu v k
    obtain ⟨hmu, hcount, hcu⟩ := closeEvent_founds (v.becomeMember k)
      (by rw [State.refoundDue, hmembers, hself]; simp [hsynced, halone])
    refine ⟨hcount, hmu.trans ?_, hcu.trans ?_⟩
    · rw [hmembers, hself]
    · rw [hself]

/-- Settles O50: by the item, and by the verdict. -/
theorem ownControlAttemptsAreSettled : Obligations.OwnControlAttemptsAreSettled := by
  intro dt s u a hsending hu
  have hunraised : u.Unraised := hu ▸ unraised_of_quiet s hsending.1
  have hslots : s.lc.slots = u.lc.slots := hu ▸ rfl
  refine ⟨fun slot r later c hr hlater hpair => ?slot, fun hitem hkind => ?beacon,
    fun r take hitem hkind hr htake hepoch hrequired hready => ?ready, fun r take v hitem hkind hr htake hv => ?readyAgain,
    fun hitem hkind r hr take htake => ?leave, fun hitem hkind take v htake hv => ?join,
    fun hitem hkind b gone take v hb hm hsynced hnamed hgone htake hv => ?drop, fun e n hlost hn c hc => ?displaced⟩
  case slot =>
    rcases hpair with ⟨rfl, hitem, hkind, rfl⟩ | ⟨rfl, hitem, hkind, rfl⟩ | ⟨rfl, hitem, hkind, rfl⟩ | ⟨rfl, hitem, hkind, rfl⟩
    · exact exec_ownSlot hsending hu .drop r later hr hlater hitem hkind
    · exact exec_ownSlot hsending hu .leave r later hr hlater hitem hkind
    · exact exec_ownSlot hsending hu .join r later hr hlater hitem hkind
    · exact exec_ownSlot hsending hu .ready r later hr hlater hitem hkind
  case beacon =>
    rw [hslots]
    refine ⟨?_, fun b c g p v hb hc hg hp hm hin hd hlisted hv => ?_⟩
    · have hexec := exec_ownFrame false false hsending (k := .beacon) hkind hu
      rw [ownFrame_of_beacon_unheard u a hitem, closeEvent_of_unraised _ (hunraised.setSlots _)] at hexec
      exact hexec
    · obtain ⟨t, hexec, hrep⟩ := exec_ownBeacon_delivered hsending hu hitem hkind hb hc hg hp hm hin hd hlisted hv
      refine ⟨t, hexec, hrep, fun hdelay hline hblank => ?_⟩
      have hvtu : v.tu = s.tu := by rw [hv, hu]
      have htu := congrArg State.tu hrep.1
      rw [htu, ← hvtu]
      exact afterAdoption_of_noError v s.self b c g p hdelay hline hblank
  case ready =>
    obtain ⟨v, hv⟩ : ∃ v, v = u.setSlots { u.lc.slots with ready := none } := ⟨_, rfl⟩
    have hexec := exec_ownReady hsending hu hitem hkind htake hv
    have hvu : v.Unraised := hv ▸ hunraised.setSlots _
    have hvself : v.self = s.self := by rw [hv, hu]; rfl
    have hvcu : v.cu = s.cu := by rw [hv, hu]; rfl
    rw [closeEvent_applyReady_own v _ r hvu (by rw [hvcu]; exact hr) hepoch (by rw [hvself]; exact hrequired)
      (by rw [hvself]; exact hready), hvself, hvcu] at hexec
    refine hexec.trans (congrArg Host.Outcome.next ?_)
    rw [hv, hslots]
    rfl
  case readyAgain =>
    rw [hslots] at hv
    have hexec := exec_ownReady hsending hu hitem hkind htake hv
    have hvu : v.Unraised := hv ▸ hunraised.setSlots _
    have hvself : v.self = s.self := by rw [hv, hu]; rfl
    have hvcu : v.cu = s.cu := by rw [hv, hu]
    rw [← hvself, ← hvcu]
    rw [← hvcu] at hr
    refine ⟨fun hepoch hrequired hready hclosing => ?_, fun hignored => ?_⟩
    · rw [hexec, applyReady_of_own_again v _ r hr hepoch hrequired hready hclosing,
        closeEvent_of_unraised _ ((hvu.setCu _).completionCheck _)]
      rfl
    · have happly := applyReady_of_ignored v v.self (ownReadyBody a.frame) r hr (by
        rintro ⟨hepoch, hrequired, hready⟩
        rcases hignored with h | h | ⟨h, h'⟩
        · exact h hepoch
        · exact absurd (hrequired.symm.trans h) (by decide)
        · rcases hready with hnot | ⟨_, hclosing⟩
          · exact absurd (hnot.symm.trans h) (by decide)
          · exact h' hclosing)
      rw [hexec, happly, closeEvent_of_unraised _ hvu]
  case leave =>
    obtain ⟨v, hvu, hvconfig, hexec⟩ := exec_ownLeave hsending hu hitem hkind hr htake
    obtain ⟨hmu, hlc, hcu, hinbound, hconfig⟩ :=
      tornDown_of_reported (closeEvent_teardown v .detached .absent (.only .detached) hvu (by decide))
    exact ⟨_, hexec, congrArg Membership.state hmu, congrArg Membership.synced hmu, congrArg Membership.members hmu, hcu,
      congrArg Link.slots hlc, congrArg Link.outbound hlc, hinbound, hconfig.trans hvconfig⟩
  case join =>
    rw [hslots] at hv
    have hexec := exec_ownJoin hsending hu hitem hkind htake (v := v) hv
    have hvu : v.Unraised := hv ▸ hunraised.emptySlot .join
    have hvself : v.self = s.self := by rw [hv, hu]; rfl
    have hvmu : v.mu = s.mu := by rw [hv, hu]
    refine ⟨fun hnone => ?founds, fun hrecorded htook => ?listens, fun hrecorded htook w hw => ?joins⟩
    case founds =>
      obtain ⟨hdelivered, hsettled⟩ := founded_of_ownJoin v (completingOf a.frame.body) (by rw [hvmu]; exact hnone)
      rw [hdelivered, hsettled, ite_self, closeEvent_foundWall v hvu] at hexec
      refine hexec.trans (congrArg Host.Outcome.next ?_)
      rw [hv, hu]
      rfl
    case listens =>
      have hlisten : v.settleJoin = v.enterListen := if_pos (by rw [hvmu]; exact hrecorded)
      subst htook
      rw [if_neg (by decide), hlisten, closeEvent_of_unraised _ (unraised_enterListen v hvu), enterListen_eq] at hexec
      refine hexec.trans (congrArg Host.Outcome.next ?_)
      rw [hv, hu, ← hsending.1.1]
      rfl
    case joins =>
      have hjoined : v.joinedSelf = w := by
        rw [hw, State.joinedSelf, hvself, hvmu, show v.cu = s.cu by rw [hv, hu]]
      rw [if_pos htook] at hexec
      rw [← hvmu, ← hvself]
      obtain ⟨hunlisted, hlisted, hfounded⟩ :=
        closeEvent_ownJoin_recorded v w (completingOf a.frame.body) hvu (by rw [hvmu]; exact hrecorded) hjoined
      refine ⟨fun hout hothers => ?_, fun hin hothers => ?_, fun hsynced halone => ?_⟩
      · rw [hunlisted hout hothers] at hexec
        exact hexec
      · rw [hlisted hin hothers] at hexec
        exact hexec
      · exact ⟨_, hexec, hfounded hsynced halone⟩
  case drop =>
    rw [hslots] at hv
    have hexec := exec_ownDrop hsending hu hitem hkind hb htake (v := v) hv
    obtain ⟨hvmu, hvself, hvlp, hvu, hcounters, hrecords⟩ := sameButDropSlot_of_own take hsending.1 hu (v := v) hv
    rw [← hvmu] at hm hsynced hgone
    rw [← hvself] at hnamed
    rw [hcounters, hrecords, ← hvmu, ← hvself, ← hvlp]
    refine ⟨fun hnonempty => ?_, fun hempty hothers => ?_, fun hempty htook halone => ?_⟩
    · subst hgone
      exact ⟨_, hexec, closeEvent_ownDrop v b take hvu hm hsynced hnamed hnonempty⟩
    · obtain ⟨hdelivered, hnotAlone, _⟩ := closeEvent_ownDrop_nobody v b hvu hm hnamed (hgone ▸ hempty)
      refine hexec.trans (congrArg Host.Outcome.next ?_)
      cases take with
      | true => exact hdelivered
      | false => exact hnotAlone (hothers.resolve_left (by decide))
    · obtain ⟨_, _, hreported⟩ := closeEvent_ownDrop_nobody v b hvu hm hnamed (hgone ▸ hempty)
      subst htook
      exact ⟨_, hexec, hreported halone⟩
  case displaced =>
    obtain ⟨hq, hview, hflight⟩ := hsending
    obtain ⟨k, rfl⟩ := exists_frameCommand hc
    have hend := endFrame_of_displaced k e (s.advance dt) a n hview hflight hlost hn
    have hconflict := exec_of_conflict (timeOf_frameCommand dt e k) hq ((effectOf_frameCommand dt e k _).trans hend)
      (unraised_of_quiet s hq)
    exact hconflict

end Sys2Proof.Machine

/-! PROOFS. The wall's beacon (chapters 3 to 5): received by a MEMBER, by a newcomer, and by a station that only observes. -/

namespace Sys2Proof.Machine

/-! ## A beacon of another station (R14, R29, R54, R65) -/

theorem length_of_readBeacon {x : Station} {bs : List Byte} {b : BeaconBody} (h : readBeacon x bs = some b) : bs.length ≤ 200 := by
  unfold readBeacon at h
  split at h
  · omega
  · exact absurd h nofun

/-- Read correctly and delivered, it is applied by a station that hears. -/
theorem exec_beacon_heard {dt : Nat} {s u : State} {x : Station} {b : BeaconBody} (take : Bool) (hrec : s.Receiving)
    (hx : x ≠ s.self) (hb : readBeacon x b.bytes = some b) (hu : u = { s with now := s.now + dt, lc := s.lc.afterFrame })
    (hstate : s.mu.state = .listen ∨ s.mu.state = .joining ∨ s.mu.state = .member) :
    exec (.beacon dt ⟨makeFrame .beacon x b.bytes, take, false⟩) s = .next (closeEvent (u.applyBeacon x b)) := by
  have hbody : readBody s.heldMap .beacon x b.bytes = some (.beacon b) := congrArg (Option.map Body.beacon) hb
  have htakes : s.slotViewNow.takes s.self x (.beacon b) = true := rfl
  have hexec := exec_controlFrame take hrec (hears_of_listed hstate) hx (length_of_readBeacon hb) hbody htakes
    (unequalJoin_of_other s _ _ _ (by decide)) hu
  exact hexec

/-- It is reported by a station that only observes. -/
theorem exec_beacon_observed {dt : Nat} {s u : State} {x : Station} {b : BeaconBody} (hrec : s.Receiving) (hx : x ≠ s.self)
    (hb : readBeacon x b.bytes = some b) (hu : u = { s with now := s.now + dt, lc := s.lc.afterFrame })
    (hstate : s.mu.state = .evicted ∨ s.mu.state = .detached ∨ s.mu.state = .conflict) :
    exec (.beacon dt ⟨makeFrame .beacon x b.bytes, true, false⟩) s = .next (closeEvent (u.reportForeign x)) := by
  obtain ⟨hq, hview, hflight, hslots⟩ := hrec
  obtain ⟨hkind, hcls, hsender, hread, hfound, hcrc⟩ := makeFrame_sound .beacon x b.bytes (length_of_readBeacon hb)
  have hmu : u.mu = s.mu := by rw [hu]
  have hself : u.self = s.self := by rw [hu]; rfl
  have hhears : ¬u.mu.state.hears = true := by rw [hmu]; rcases hstate with h | h | h <;> rw [h] <;> decide
  have hobserves : u.mu.state.observes = true := by rw [hmu]; rcases hstate with h | h | h <;> rw [h] <;> rfl
  have hbody : readBody u.heldMap .beacon x b.bytes = some (.beacon b) := congrArg (Option.map Body.beacon) hb
  have hchecked : u.checkedBody .beacon (makeFrame .beacon x b.bytes) = some (.beacon b) := by
    rw [State.checkedBody, hsender, hread]
    exact (if_pos ⟨hcrc, hkind, hcls, by rw [hself]; exact hx⟩).trans hbody
  have hobserve : u.observe .beacon ⟨makeFrame .beacon x b.bytes, true, false⟩ = u.reportForeign x := by
    simp only [State.observe, hfound, hchecked, hsender, and_self, if_true]
  have hend := endFrame_received .beacon ⟨makeFrame .beacon x b.bytes, true, false⟩ (s.advance dt) hview hflight
  have hadvance : (s.advance dt).setLc (s.advance dt).lc.afterFrame = u := by
    rw [hu]
    rfl
  rw [hadvance] at hend
  have hexec := exec_frameCommand dt ⟨makeFrame .beacon x b.bytes, true, false⟩ .beacon s hq
  rw [hend] at hexec
  refine hexec.trans (congrArg (fun t => Host.Outcome.next (closeEvent t)) ?_)
  exact (if_neg hhears).trans ((if_pos hobserves).trans hobserve)

theorem closeEvent_reportForeign (u : State) (x : Station) (hu : u.Unraised) :
    (hasStation u.mu.foreign x = true → closeEvent (u.reportForeign x) = u) ∧
    (hasStation u.mu.foreign x = false →
      closeEvent (u.reportForeign x) = { u with
        mu := { u.mu with foreign := withStation u.mu.foreign x },
        lp := u.lp.enqueue (EventRecord.foreign x), free := u.free + 1 }) := by
  refine ⟨fun hknown => ?_, fun hnew => ?_⟩
  · rw [State.reportForeign, if_pos hknown, closeEvent_of_unraised u hu]
  · have hset : (u.setMu { u.mu with foreign := withStation u.mu.foreign x }).Unraised := hu
    rw [State.reportForeign, if_neg (Bool.eq_false_iff.mp hnew), closeEvent_raise _ _ hset]
    rfl

theorem applyBeacon_of_stranger (s : State) (x : Station) (b : BeaconBody) (hm : s.mu.state = .member)
    (hx : hasStation s.mu.members x = false) : s.applyBeacon x b = s.reportForeign x := by
  refine (if_pos hm).trans (if_pos ?_)
  rw [hx]
  rfl

theorem applyBeacon_of_unequal (s : State) (x : Station) (b : BeaconBody)
    (h : (s.mu.state = .member ∧ hasStation s.mu.members x = true) ∨ s.mu.state ≠ .member) (hd : s.digest ≠ some b.digest) :
    s.applyBeacon x b = s.enterConflict false := by
  rcases h with ⟨hm, hx⟩ | hm
  · refine (if_pos hm).trans ((if_neg ?_).trans (if_pos hd))
    rw [hx]
    decide
  · exact (if_neg hm).trans (if_pos hd)

theorem applyBeacon_of_removed (s : State) (x : Station) (b : BeaconBody) (hm : s.mu.state = .member)
    (hx : hasStation s.mu.members x = true) (hd : s.digest = some b.digest) (hself : hasStation b.members s.self = false) :
    s.applyBeacon x b = s.evict true := by
  unfold State.applyBeacon
  simp [hm, hx, hd, hself]

/-- Settles O52: the tests in their order. -/
theorem beaconIsTestedThenAdopted : Obligations.BeaconIsTestedThenAdopted := by
  intro dt s u x b c e hrec hx hc hb he hu
  have hunraised : u.Unraised := hu ▸ unraised_of_quiet s hrec.1
  have hmu : u.mu = s.mu := by rw [hu]
  have htu : u.tu = s.tu := by rw [hu]
  have hconfig : u.config = some c := by rw [hu]; exact hc
  have hdigest : u.digest = some c.map.digest := digest_of_config u c hconfig
  have hself : u.self = c.map.self := self_of_config u c hconfig
  have hheard := fun hstate => exec_beacon_heard true hrec hx hb hu hstate
  rw [← he, ← hmu] at hheard
  rw [← hmu, ← htu]
  refine ⟨fun hstate => ?foreign, fun hstate hunequal => ?unequal, fun hm hin hequal => ⟨fun hout => ?evicted, fun hlisted g p hg hp => ?adopted⟩⟩
  case foreign =>
    have hexec : exec (.beacon dt e) s = .next (closeEvent (u.reportForeign x)) := by
      rcases hstate with ⟨hm, hout⟩ | hobserves
      · rw [hheard (.inr (.inr hm)), applyBeacon_of_stranger u x b hm hout]
      · rw [hmu] at hobserves
        rw [he]
        exact exec_beacon_observed hrec hx hb hu hobserves
    obtain ⟨hknown, hnew⟩ := closeEvent_reportForeign u x hunraised
    exact ⟨fun h => hexec.trans (congrArg Host.Outcome.next (hknown h)), fun h => hexec.trans (congrArg Host.Outcome.next (hnew h))⟩
  case unequal =>
    have hd : u.digest ≠ some b.digest := by
      rw [hdigest]
      exact fun heq => hunequal (Option.some.inj heq).symm
    have htested : (u.mu.state = .member ∧ hasStation u.mu.members x = true) ∨ u.mu.state ≠ .member := by
      rcases hstate with h | h | h
      · exact .inl h
      · exact .inr (by rw [h]; decide)
      · exact .inr (by rw [h]; decide)
    have hhears : u.mu.state = .listen ∨ u.mu.state = .joining ∨ u.mu.state = .member := by
      rcases hstate with h | h | h
      · exact .inr (.inr h.1)
      · exact .inl h
      · exact .inr (.inl h)
    obtain ⟨hconflict, hcause, _⟩ := closeEvent_enterConflict u false hunraised
    rw [← applyBeacon_of_unequal u x b htested hd] at hconflict hcause
    exact ⟨_, hheard hhears, hconflict, hcause⟩
  case evicted =>
    have happly := applyBeacon_of_removed u x b hm hin (by rw [hdigest, hequal]) (by rw [hself]; exact hout)
    have hrep := closeEvent_teardown u .evicted .beacon (.evicted true) hunraised (by decide)
    have hevict : u.applyBeacon x b = (u.teardown .evicted .beacon).raise (.evicted true) := happly
    rw [← hevict] at hrep
    obtain ⟨hmu', _, hcu, _⟩ := tornDown_of_reported hrep
    exact ⟨_, hheard (.inr (.inr hm)), congrArg Membership.state hmu', congrArg Membership.cause hmu',
      congrArg Membership.members hmu', hcu⟩
  case adopted =>
    have happly := applyBeacon_of_adopted u x b hm hin (by rw [hdigest, hequal]) (by rw [hself]; exact hlisted)
    have hrep := closeEvent_adopt u x b c g p hunraised hm hconfig hg hp
    rw [← happly] at hrep
    exact ⟨_, hheard (.inr (.inr hm)), hrep⟩

/-! ## A newcomer (R46, R74 to R80, R110) -/

/-- An inbound queue that is empty loses nothing at an adoption (R132). -/
theorem adoptInbound_of_empty (s : State) (old : Option Epoch) (h : s.fs.inbound = []) : s.adoptInbound old = s := by
  have hkept : ∀ e, s.fs.keptEntries e = s.fs.inbound := fun e => by rw [FrameStore.keptEntries, h]
  have hremoved : ∀ e, s.fs.removedCount e = 0 := fun e => by rw [FrameStore.removedCount, h]; rfl
  have hcount : s.countStale 0 = s := by rw [State.countStale, saturate_zero]; rfl
  unfold State.adoptInbound
  split
  · rfl
  · split
    · rfl
    · rw [hkept, hremoved]
      exact hcount

theorem adoptMembers_of_newcomer (s : State) (b : BeaconBody) (h : s.mu.state ≠ .member) :
    s.adoptMembers b = s.setMu { s.mu with members := b.members, synced := true, beaconAdopted := true, memberRecorded := true } :=
  if_neg h

theorem adoptRecord_of_newcomer (s : State) (b : BeaconBody) (h : s.mu.state ≠ .member) (hr : s.cu.record = none) :
    s.adoptRecord b = (s.setCu { record := some (adoptedRecord none b), phase := .absent, timer := 0 }).setSlots
      { s.lc.slots with drop := none, ready := none } := by
  unfold State.adoptRecord
  simp only [h, if_false, hr, adoptSlots_eq]
  rfl

/-- A newcomer after the adoption of x's beacon, before its records enter the queue. -/
def State.adoptedNewcomer (u : State) (x : Station) (b : BeaconBody) (c : Configuration) (g : Generator) (p : Nat) : State :=
  { u with
    mu := { u.mu with members := b.members, synced := true, beaconAdopted := true, memberRecorded := true },
    tu := { u.tu with
      count := u.countFrom b c p, lock := (lockFrom b c p).1, source := some x, silent := 0,
      held := if g.activeSince.isSome then some (lockFrom b c p).2 else u.tu.held,
      generator := if g.activeSince.isSome then some g
        else some { g with correction := some (lockFrom b c p).2,
                           activeSince := if ({ g with correction := some (lockFrom b c p).2 } : Generator).blankEnd c ≤ u.now
                             then some u.now else none } },
    lc := { u.lc with slots := { u.lc.slots with
      beacon := u.lc.slots.beacon && !decide (x < c.map.self), drop := none, ready := none } },
    cu := { record := some (adoptedRecord none b), phase := .absent, timer := 0 } }

theorem adopt_of_newcomer (u : State) (x : Station) (b : BeaconBody) (c : Configuration) (g : Generator) (p : Nat)
    (hm : u.mu.state ≠ .member) (hr : u.cu.record = none) (hin : u.fs.inbound = []) (hc : u.config = some c)
    (hg : u.tu.generator = some g) (hp : u.tu.startPhase = some p) :
    ∃ records, u.adopt x b = (u.adoptedNewcomer x b c g p).setLp { u.lp with raised := records } := by
  have htiming := adoptTiming_eq u x b c g p hc hg hp
  have htm : (u.adoptTiming x b).mu = u.mu := by rw [htiming]
  have htr : (u.adoptTiming x b).cu = u.cu := by rw [htiming]
  have htin : (u.adoptTiming x b).fs = u.fs := by rw [htiming]
  have hslip : ∀ t : State, t.reportSlip u = t := fun t => if_neg fun hmember => hm hmember.1
  have hmembers := adoptMembers_of_newcomer (u.adoptTiming x b) b (by rw [htm]; exact hm)
  have hrecord := adoptRecord_of_newcomer ((u.adoptTiming x b).setMu { (u.adoptTiming x b).mu with
    members := b.members, synced := true, beaconAdopted := true, memberRecorded := true }) b
    (show (u.adoptTiming x b).mu.state ≠ .member by rw [htm]; exact hm)
    (show (u.adoptTiming x b).cu.record = none by rw [htr]; exact hr)
  have hinbound := fun old => adoptInbound_of_empty (((u.adoptTiming x b).adoptMembers b).adoptRecord b) old (by
    rw [hmembers, hrecord]
    exact (congrArg FrameStore.inbound htin).trans hin)
  refine ⟨(u.adoptTiming x b).lp.raised, ?_⟩
  rw [State.adopt, hslip, hinbound, hmembers, hrecord, htiming]
  rfl

/-- An event at whose end no founding is due changes only the Local Port and the free values. -/
theorem closeEvent_of_noFounding (v : State) (h : v.refoundDue = false) :
    closeEvent v = { v with lp := (closeEvent v).lp, free := (closeEvent v).free } := by
  have hrefound : v.refound = v := if_neg (Bool.eq_false_iff.mp h)
  rw [closeEvent, hrefound]
  rfl

theorem applyBeacon_of_newcomer (s : State) (x : Station) (b : BeaconBody) (hm : s.mu.state ≠ .member)
    (hd : s.digest = some b.digest) : s.applyBeacon x b = s.adopt x b :=
  (if_neg hm).trans (if_neg fun hne => hne hd)

/-- Settles O51: the adoption as one update, the correction by whether active rows are shown. -/
theorem newcomerAdoptsTheBeacon : Obligations.NewcomerAdoptsTheBeacon := by
  intro dt s x b take c g p q correction hrec hx hstate hr hphase hin hc hg hp hb hd hq hcorrection
  obtain ⟨u, hu⟩ : ∃ u : State, u = { s with now := s.now + dt, lc := s.lc.afterFrame } := ⟨_, rfl⟩
  have hother : s.mu.state ≠ .member := by rcases hstate with h | h <;> rw [h] <;> decide
  have hexec := exec_beacon_heard take hrec hx hb hu (or_assoc.mp (.inl hstate))
  have hconfig : u.config = some c := by rw [hu]; exact hc
  have humember : u.mu.state ≠ .member := by rw [hu]; exact hother
  have happly := applyBeacon_of_newcomer u x b humember (by rw [digest_of_config u c hconfig, hd])
  obtain ⟨records, hadopt⟩ := adopt_of_newcomer u x b c g p humember (by rw [hu]; exact hr) (by rw [hu]; exact hin) hconfig
    (by rw [hu]; exact hg) (by rw [hu]; exact hp)
  have hclose := closeEvent_of_noFounding ((u.adoptedNewcomer x b c g p).setLp { u.lp with raised := records })
    (refoundDue_of_other _ humember)
  rw [happly, hadopt] at hexec
  obtain ⟨t, ht⟩ : ∃ t, t = closeEvent ((u.adoptedNewcomer x b c g p).setLp { u.lp with raised := records }) := ⟨_, rfl⟩
  rw [← ht] at hexec hclose
  have hlock : lockFrom b c p = lockAndCorrection q.1 c.lineTime := by rw [hq]; rfl
  have hcount : u.countFrom b c p = b.count + BitVec.ofInt 32 q.2 + BitVec.ofNat 32 s.tu.startsSince := by
    rw [hq, hu]
    rfl
  have htu : t.tu = (u.adoptedNewcomer x b c g p).tu := by rw [hclose]; rfl
  refine ⟨t, hexec, ?_, ?_, ?_, ?_, fun since hsince => ?_, fun hblank => ?_, ?_⟩
  · rw [hclose, hu]; rfl
  · rw [hclose, hu]; rfl
  · rw [hclose]; rfl
  · rw [htu, ← hlock, ← hcount, State.adoptedNewcomer, hu]
  · have hsome : g.activeSince.isSome = true := by rw [hsince]; rfl
    rw [htu, hcorrection, ← hlock]
    exact ⟨if_pos hsome, if_pos hsome⟩
  · have hnone : ¬g.activeSince.isSome = true := by rw [hblank]; decide
    have hheld : u.tu.held = s.tu.held := by rw [hu]
    have hnow : u.now = s.now + dt := by rw [hu]
    rw [htu, hcorrection, ← hlock, ← hheld, ← hnow]
    exact ⟨if_neg hnone, if_neg hnone⟩
  · have hlc : t.lc = (u.adoptedNewcomer x b c g p).lc := by rw [hclose]; rfl
    have hbeacon : (s.lc.slots.beacon && !decide (x < c.map.self)) = if x < c.map.self then false else s.lc.slots.beacon := by
      by_cases hlower : x < c.map.self
      · rw [if_pos hlower, decide_eq_true hlower, Bool.not_true, Bool.and_false]
      · rw [if_neg hlower, decide_eq_false hlower, Bool.not_false, Bool.and_true]
    rw [hlc, ← hbeacon, State.adoptedNewcomer, hu]
    rfl

end Sys2Proof.Machine
